-- ==== Sys2Proof/Word.lean ====
section
/-! DEFINITION. The word types of the Output Transport Engine: bytes, 32-bit words and the fixed-width fields of a
command header (rules R11, R71). -/
namespace Sys2Proof

/-- An intensity value, a FIFO entry or a framing byte (R11). -/
abbrev Byte := BitVec 8

/-- A command word, a descriptor word, a byte-pattern word or a 32-bit state element (R11, R70). -/
abbrev Word := BitVec 32

/-- The CH field of a command header, `W0[23:20]` (R71). -/
abbrev ChanId := BitVec 4

/-- The IMM16 field of a command header, `W0[15:0]`: a field id or a buffer address (R71, R74). -/
abbrev Imm16 := BitVec 16

/-- A brightness multiplier, 0 to 256; 256 is unity (R168). -/
abbrev Multiplier := BitVec 9

end Sys2Proof
end

