-- ==== Sys2Proof/Syntax.lean ====
section
/-! DEFINITION. The commands: one constructor per row of the opcode map (R80), with the operands its format gives it
(R72). Bits that R72 marks ignored are no part of a command. -/
namespace Sys2Proof

/-- The five symbols of a protocol timing table, in the order of their ids 0 to 4 (R73). -/
inductive Sym where
  | zeroBit
  | oneBit
  | interframeGap
  | startBit
  | stopBit
  deriving DecidableEq, Repr

/-- The commands of R80, in opcode order 0x00 to 0x14. -/
inductive Instr where
  /-- NOP (R90). -/
  | nop
  /-- CFG_WRITE ch, FIELD, value (R91). -/
  | cfgWrite (ch : ChanId) (field : Imm16) (value : Word)
  /-- CFG_READ ch, FIELD (R93). -/
  | cfgRead (ch : ChanId) (field : Imm16)
  /-- BUF_WRITE ch, addr, byte (R94). -/
  | bufWrite (ch : ChanId) (addr : Imm16) (data : Byte)
  /-- BUF_READ ch, addr (R95). -/
  | bufRead (ch : ChanId) (addr : Imm16)
  /-- TABLE_BUILD ch (R105). -/
  | tableBuild (ch : ChanId)
  /-- SET_SYMBOL ch, SYM, word (R106). -/
  | setSymbol (ch : ChanId) (sym : Sym) (word : Word)
  /-- LOOKUP ch, SYM (R107). -/
  | lookup (ch : ChanId) (sym : Sym)
  /-- BEGIN ch (R115). -/
  | beginCh (ch : ChanId)
  /-- RENDER ch (R116). -/
  | render (ch : ChanId)
  /-- STOP ch (R117). -/
  | stop (ch : ChanId)
  /-- PAUSE ch (R118). -/
  | pause (ch : ChanId)
  /-- RESUME ch (R119). -/
  | resume (ch : ChanId)
  /-- SET_MIN_FRAME ch, us (R120). -/
  | setMinFrame (ch : ChanId) (us : Word)
  /-- SET_WIDTH ch, w (R121). -/
  | setWidth (ch : ChanId) (w : Word)
  /-- ISR_FILL ch, interrupt context only (R151). -/
  | isrFill (ch : ChanId)
  /-- PUMP_START ch, interrupt context only (R166). -/
  | pumpStart (ch : ChanId)
  /-- PUMP_MORE ch (R167). -/
  | pumpMore (ch : ChanId)
  /-- PUMP_NEXT ch, interrupt context only (R169). -/
  | pumpNext (ch : ChanId)
  /-- PACER_QUERY ch (R170). -/
  | pacerQuery (ch : ChanId)
  /-- PACER_RECORD ch, interrupt context only (R171). -/
  | pacerRecord (ch : ChanId)
  deriving DecidableEq, Repr

end Sys2Proof
end

