-- ==== Sys2Proof/WellFormed.lean ====
section
/-! DEFINITION. Which commands are well formed on a machine of `N_CH` channels (R82): the channel a command names
exists. The other conditions of R82 hold of every term of `Instr`, since its fields have the width of their bits and
a symbol is one of five. -/
namespace Sys2Proof

/-- The channel a command names; NOP names none (R72). -/
def Instr.channel : Instr → Option ChanId
  | .nop => none
  | .cfgWrite ch _ _ => some ch
  | .cfgRead ch _ => some ch
  | .bufWrite ch _ _ => some ch
  | .bufRead ch _ => some ch
  | .tableBuild ch => some ch
  | .setSymbol ch _ _ => some ch
  | .lookup ch _ => some ch
  | .beginCh ch => some ch
  | .render ch => some ch
  | .stop ch => some ch
  | .pause ch => some ch
  | .resume ch => some ch
  | .setMinFrame ch _ => some ch
  | .setWidth ch _ => some ch
  | .isrFill ch => some ch
  | .pumpStart ch => some ch
  | .pumpMore ch => some ch
  | .pumpNext ch => some ch
  | .pacerQuery ch => some ch
  | .pacerRecord ch => some ch

/-- A command is well formed when the channel it names is below `N_CH` (R82). -/
def Instr.wellFormed (nCh : Nat) (i : Instr) : Bool :=
  match i.channel with
  | none => true
  | some ch => decide (ch.toNat < nCh)

end Sys2Proof
end

