-- ==== Sys2Proof/Decode.lean ====
section
/-! DEFINITION. The decoder of command words (R70 to R85), total on any two words and rejecting by name, and after it
the encoder (R86). -/
namespace Sys2Proof

/-- Why a pair of words is no command. Every one of them is ILLEGAL at the command port (R84). -/
inductive DecodeError where
  /-- The opcode is 0x15 to 0xFF (R81). -/
  | reservedOpcode
  /-- A must-be-zero bit of the header is 1 (R82). -/
  | mustBeZero
  /-- The SYM field of format S is 5 to 15 (R82). -/
  | reservedSymbol
  /-- The CH field is `N_CH` or more (R82). -/
  | noSuchChannel
  deriving DecidableEq, Repr

/-- `W0[31:24]` (R71). -/
def opcField (w0 : Word) : BitVec 8 := w0.extractLsb' 24 8

/-- `W0[23:20]` (R71). -/
def chField (w0 : Word) : ChanId := w0.extractLsb' 20 4

/-- `W0[19:16]` (R71). -/
def symField (w0 : Word) : BitVec 4 := w0.extractLsb' 16 4

/-- `W0[15:0]` (R71, R74: unsigned, never extended, scaled or shifted). -/
def immField (w0 : Word) : Imm16 := w0.extractLsb' 0 16

/-- The symbol with a given id, none for the reserved ids 5 to 15 (R73). -/
def symOfId (id : BitVec 4) : Option Sym :=
  match id.toNat with
  | 0 => some .zeroBit
  | 1 => some .oneBit
  | 2 => some .interframeGap
  | 3 => some .startBit
  | 4 => some .stopBit
  | _ => none

/-- The id of a symbol (R73). -/
def symId : Sym → BitVec 4
  | .zeroBit => 0
  | .oneBit => 1
  | .interframeGap => 2
  | .startBit => 3
  | .stopBit => 4

/-- Formats N and V: `W0[19:0]` is zero (R72, R84). -/
def decodeN (w0 : Word) (k : ChanId → Instr) : Except DecodeError Instr :=
  if symField w0 = 0 ∧ immField w0 = 0 then .ok (k (chField w0)) else .error .mustBeZero

/-- Format S: `W0[15:0]` is zero and SYM names a symbol (R72, R84). -/
def decodeS (w0 : Word) (k : ChanId → Sym → Instr) : Except DecodeError Instr :=
  if immField w0 = 0 then
    match symOfId (symField w0) with
    | some s => .ok (k (chField w0) s)
    | none => .error .reservedSymbol
  else .error .mustBeZero

/-- Formats F and A: `W0[19:16]` is zero (R72, R84). -/
def decodeF (w0 : Word) (k : ChanId → Imm16 → Instr) : Except DecodeError Instr :=
  if symField w0 = 0 then .ok (k (chField w0) (immField w0)) else .error .mustBeZero

/-- The command that two words spell, by opcode and format (R72, R80, R84), before the channel is checked. -/
def decodeShape (w0 w1 : Word) : Except DecodeError Instr :=
  match (opcField w0).toNat with
  | 0x00 => .ok .nop
  | 0x01 => decodeF w0 fun ch f => .cfgWrite ch f w1
  | 0x02 => decodeF w0 fun ch f => .cfgRead ch f
  | 0x03 => decodeF w0 fun ch a => .bufWrite ch a (w1.extractLsb' 0 8)
  | 0x04 => decodeF w0 fun ch a => .bufRead ch a
  | 0x05 => decodeN w0 .tableBuild
  | 0x06 => decodeS w0 fun ch s => .setSymbol ch s w1
  | 0x07 => decodeS w0 fun ch s => .lookup ch s
  | 0x08 => decodeN w0 .beginCh
  | 0x09 => decodeN w0 .render
  | 0x0A => decodeN w0 .stop
  | 0x0B => decodeN w0 .pause
  | 0x0C => decodeN w0 .resume
  | 0x0D => decodeN w0 fun ch => .setMinFrame ch w1
  | 0x0E => decodeN w0 fun ch => .setWidth ch w1
  | 0x0F => decodeN w0 .isrFill
  | 0x10 => decodeN w0 .pumpStart
  | 0x11 => decodeN w0 .pumpMore
  | 0x12 => decodeN w0 .pumpNext
  | 0x13 => decodeN w0 .pacerQuery
  | 0x14 => decodeN w0 .pacerRecord
  | _ => .error .reservedOpcode

/-- The decoder of R84 on a machine of `nCh` channels: the header's shape first, the channel after it. The context
check of R84 is the command's own (R192), since it depends on who issues it. The result depends on nothing else
(R85). -/
def decode (nCh : Nat) (w0 w1 : Word) : Except DecodeError Instr :=
  match decodeShape w0 w1 with
  | .ok i => if i.wellFormed nCh then .ok i else .error .noSuchChannel
  | .error e => .error e

/-- A command header from its four fields (R71). -/
def header (opc : BitVec 8) (ch : ChanId) (sym : BitVec 4) (imm : Imm16) : Word :=
  opc ++ ch ++ sym ++ imm

/-- The two words of a command as an assembler writes them: 0 in every ignored bit (R86). -/
def encode : Instr → Word × Word
  | .nop => (header 0x00 0 0 0, 0)
  | .cfgWrite ch f v => (header 0x01 ch 0 f, v)
  | .cfgRead ch f => (header 0x02 ch 0 f, 0)
  | .bufWrite ch a b => (header 0x03 ch 0 a, b.setWidth 32)
  | .bufRead ch a => (header 0x04 ch 0 a, 0)
  | .tableBuild ch => (header 0x05 ch 0 0, 0)
  | .setSymbol ch s w => (header 0x06 ch (symId s) 0, w)
  | .lookup ch s => (header 0x07 ch (symId s) 0, 0)
  | .beginCh ch => (header 0x08 ch 0 0, 0)
  | .render ch => (header 0x09 ch 0 0, 0)
  | .stop ch => (header 0x0A ch 0 0, 0)
  | .pause ch => (header 0x0B ch 0 0, 0)
  | .resume ch => (header 0x0C ch 0 0, 0)
  | .setMinFrame ch us => (header 0x0D ch 0 0, us)
  | .setWidth ch w => (header 0x0E ch 0 0, w)
  | .isrFill ch => (header 0x0F ch 0 0, 0)
  | .pumpStart ch => (header 0x10 ch 0 0, 0)
  | .pumpMore ch => (header 0x11 ch 0 0, 0)
  | .pumpNext ch => (header 0x12 ch 0 0, 0)
  | .pacerQuery ch => (header 0x13 ch 0 0, 0)
  | .pacerRecord ch => (header 0x14 ch 0 0, 0)

/-- The name of a command in the assembler of R86. -/
def mnemonic : Instr → String
  | .nop => "NOP"
  | .cfgWrite _ _ _ => "CFG_WRITE"
  | .cfgRead _ _ => "CFG_READ"
  | .bufWrite _ _ _ => "BUF_WRITE"
  | .bufRead _ _ => "BUF_READ"
  | .tableBuild _ => "TABLE_BUILD"
  | .setSymbol _ _ _ => "SET_SYMBOL"
  | .lookup _ _ => "LOOKUP"
  | .beginCh _ => "BEGIN"
  | .render _ => "RENDER"
  | .stop _ => "STOP"
  | .pause _ => "PAUSE"
  | .resume _ => "RESUME"
  | .setMinFrame _ _ => "SET_MIN_FRAME"
  | .setWidth _ _ => "SET_WIDTH"
  | .isrFill _ => "ISR_FILL"
  | .pumpStart _ => "PUMP_START"
  | .pumpMore _ => "PUMP_MORE"
  | .pumpNext _ => "PUMP_NEXT"
  | .pacerQuery _ => "PACER_QUERY"
  | .pacerRecord _ => "PACER_RECORD"

/-- The words of an instruction given as one number: bit 0 is bit 0 of W0, bit 32 is bit 0 of W1, and every bit at or
above `nbits` is 0. -/
def commandOfBits (nbits w : Nat) : Word × Word :=
  let v := w % 2 ^ nbits
  (BitVec.ofNat 32 v, BitVec.ofNat 32 (v / 2 ^ 32))

/-- What the decoder reads from an instruction given as one number, on a machine with the largest `N_CH` (16, log 14), so that
every channel number of the CH field names a channel. -/
def decodeTableWord (nbits w : Nat) : Option Instr :=
  match decode 16 (commandOfBits nbits w).1 (commandOfBits nbits w).2 with
  | .ok i => some i
  | .error _ => none

end Sys2Proof
end

