-- ==== Sys2Proof/Config.lean ====
section
/-! DEFINITION. What an implementation fixes: the parameters of rule R10, and the constants without a body that stand
for what the spec leaves open. No proof can see the value of one of those. -/
namespace Sys2Proof

/-- The two transports, and the two kinds of peripheral (R10, R15, R22). -/
inductive Kind where
  | pulse
  | byte
  deriving DecidableEq, Repr

/-- Which brightness function the machine has (R168): the spec's default, or some other function, number `k` of the
family `Config.scaleOther`, of which nothing is known (log 2). -/
inductive ScaleFn where
  | standard
  | other (k : Nat)
  deriving DecidableEq, Repr

/-- Which gap function the machine has (R104): the spec's default, or some other function, number `k` of the family
`Config.gapOther`, of which nothing is known (log 3). -/
inductive GapFn where
  | standard
  | other (k : Nat)
  deriving DecidableEq, Repr

/-- The parameters of R10 that are plain values. `N_CH` is the number of channels of the state and `N_PERIPH` is the
length of `periphKind` (log 1). -/
structure Params where
  /-- `PERIPH_KIND[p]` for `p` in `0 .. N_PERIPH - 1`. -/
  periphKind : List Kind
  /-- `N_PIN`. -/
  nPin : Nat
  /-- `BUF_MAX`. -/
  bufMax : Nat
  /-- `FIFO_DEPTH`. -/
  fifoDepth : Nat
  /-- `PT_DEPTH`. -/
  ptDepth : Nat
  /-- `BAUD_MAX`. -/
  baudMax : Nat
  /-- `SCALE`. -/
  scale : ScaleFn
  /-- `GAP_TICKS`. -/
  gap : GapFn
  deriving DecidableEq, Repr

/-- The constraints of R10 on the parameters (that on `N_CH` is `1 ≤ N_CH ≤ 16`, said of the state). -/
abbrev Params.wf (p : Params) : Prop :=
  (1 ≤ p.periphKind.length ∧ p.periphKind.length ≤ 256) ∧ (1 ≤ p.nPin ∧ p.nPin ≤ 256) ∧
  (1 ≤ p.bufMax ∧ p.bufMax ≤ 65536) ∧ (32 ≤ p.fifoDepth ∧ p.fifoDepth ≤ 65535) ∧
  (1 ≤ p.ptDepth ∧ p.ptDepth ≤ 2 ^ 24) ∧ (1 ≤ p.baudMax ∧ p.baudMax ≤ 2 ^ 32 - 1)

/-- The values in the last column of R10. DESIGN CHOICE (log 1): the machine after reset has these; statements are
about states, and so about every value of the parameters. -/
def Params.specExample : Params where
  periphKind := [.pulse, .byte]
  nPin := 40
  bufMax := 512
  fifoDepth := 128
  ptDepth := 1024
  baudMax := 2 ^ 32 - 1
  scale := .standard
  gap := .standard

/-- The family of brightness functions other than the default (R168, log 2). Free: no body. -/
opaque Config.scaleOther : Nat → Byte → Multiplier → Byte

/-- The family of gap functions other than the default: number, minimum frame duration, reset ticks, tick length
(R104, log 3). Free: no body. -/
opaque Config.gapOther : Nat → Nat → Nat → Nat → Nat

/-- `IBUF_INIT`: the contents of the intensity-buffer RAM at reset, by channel and address (R43, log 4). Free: no
body. -/
opaque Config.ibufInit : Nat → Nat → Byte

/-- How long an agent may be passed over where the schedule names no move: for the number of an agent and the free move
at which the draw is made, how many free moves later it falls due (R6, R7, R188, log 15). Free: no body. -/
opaque Config.agentDelay : Nat → Nat → Nat

/-- The commands of a host that goes on past its listed ones, by their number (R219, log 6). Free: no body. -/
opaque Config.hostCommand : Nat → Word × Word

/-- Whether the host goes on issuing commands at a free move: it may stop at any time (R7, R217, log 6). Free: no
body. -/
opaque Config.hostGoesOn : Nat → Bool

end Sys2Proof
end

