-- ==== Sys2Proof/Machine/State.lean ====
section
/-! DEFINITION. The architectural state (10_state.md) as plain data, the reasons a step can stop, and the state right
after reset (R205). -/
namespace Sys2Proof.Machine

open Sys2Proof

/-- The frame state of a channel (R24). -/
inductive FrameState where
  | idle
  | armed
  | streaming
  | paused
  deriving DecidableEq, Repr

/-- The two frame pumps (R15, R22). -/
inductive PumpKind where
  | pixel
  | serial
  deriving DecidableEq, Repr

/-- The configuration fields of a channel, each at the width of R22. -/
structure Cfg where
  transportKind : Kind
  periphId : BitVec 8
  pin : BitVec 8
  idleLevel : Bool
  invert : Bool
  bufLen : BitVec 17
  groupSize : BitVec 8
  pumpKind : PumpKind
  brightness : Multiplier
  fifoThresh : BitVec 16
  xlatEn : Bool
  bpb : BitVec 3
  lineBits : BitVec 8
  dataRate : Word
  wordLen : BitVec 4
  stopBits : BitVec 2
  tickPs : Word
  t0hNs : Word
  t0lNs : Word
  t1hNs : Word
  t1lNs : Word
  resetNs : Word
  starthNs : Word
  startlNs : Word
  stophNs : Word
  stoplNs : Word
  bias : BitVec 18
  preLen : BitVec 3
  preBytes : Word
  appLen : BitVec 3
  appBytes : Word
  grpLen : BitVec 3
  grpBytes : Word
  deriving DecidableEq, Repr

/-- The reset column of R22. -/
def Cfg.reset : Cfg where
  transportKind := .pulse
  periphId := 0
  pin := 0
  idleLevel := false
  invert := false
  bufLen := 0
  groupSize := 0
  pumpKind := .pixel
  brightness := 256
  fifoThresh := 0
  xlatEn := true
  bpb := 1
  lineBits := 0
  dataRate := 0
  wordLen := 8
  stopBits := 1
  tickPs := 0
  t0hNs := 0
  t0lNs := 0
  t1hNs := 0
  t1lNs := 0
  resetNs := 0
  starthNs := 0
  startlNs := 0
  stophNs := 0
  stoplNs := 0
  bias := 0
  preLen := 0
  preBytes := 0
  appLen := 0
  appBytes := 0
  grpLen := 0
  grpBytes := 0

/-- A protocol timing table: one 32-bit entry per symbol (R30), a descriptor word (R76) on a pulse-train channel and a
byte-pattern word (R77) on a byte-serial one. -/
structure SymbolTable where
  zeroBit : Word
  oneBit : Word
  interframeGap : Word
  startBit : Word
  stopBit : Word
  deriving DecidableEq, Repr

/-- Events of the pulse-train output (R38). `seg level ticks`: the line is held at `level` for `ticks` ticks (R141). -/
inductive PtEvent where
  | bind (idleLevel : Bool)
  | seg (level : Bool) (ticks : Nat)
  deriving DecidableEq, Repr

/-- Events of the byte-serial output (R38). -/
inductive UartEvent where
  | bind (baud : Word) (wordLen : BitVec 4) (stopBits : BitVec 2) (invert : Bool)
  | byte (b : Byte)
  deriving DecidableEq, Repr

/-- One channel: its configuration and all its state (10_state.md section 3, R43). -/
structure Chan where
  /-- The configuration fields (R22). -/
  cfg : Cfg
  /-- `STATE` (R24). -/
  state : FrameState
  /-- `BOUND` (R25). -/
  bound : Bool
  /-- `BAUD` (R26). -/
  baud : Word
  /-- `MIN_FRAME_US` (R27). -/
  minFrameUs : Word
  /-- `WIDTH` (R28). -/
  width : BitVec 4
  /-- `TSET`, bit `s` for the symbol of id `s` (R29). -/
  tset : BitVec 5
  /-- `BUILT` (R29). -/
  built : Bool
  /-- `TABLE` (R30). -/
  table : SymbolTable
  /-- `CUR_OFFSET` (R31). -/
  curOffset : Word
  /-- `CUR_BITS` (R32). -/
  curBits : BitVec 4
  /-- `CUR_ACTIVE` (R33). -/
  curActive : Bool
  /-- `LAST_START_US` (R34). -/
  lastStartUs : Word
  /-- `STARTED` (R34). -/
  started : Bool
  /-- `INT_EN` (R35). -/
  intEn : Bool
  /-- `FIFO`, head first (R36). -/
  fifo : List Byte
  /-- `PTQ`, head first (R37). -/
  ptq : List Word
  /-- `LINE` (R38). -/
  line : Bool
  /-- `PT_TRACE`, oldest event first (R38). -/
  ptTrace : List PtEvent
  /-- `UART_TRACE`, oldest event first (R38). -/
  uartTrace : List UartEvent
  /-- `FRAMES_STARTED` (R39). -/
  framesStarted : Word
  /-- `FRAMES_DONE` (R39). -/
  framesDone : Word
  /-- `ERR`: bit 0 PRECOND, bit 1 OVERREAD, bit 2 OVERSIZE (R39). -/
  err : BitVec 3
  /-- `IBUF`: the cells written since reset, addresses rising; any other cell holds its `IBUF_INIT` draw (R43, log 4). -/
  ibuf : List Host.Cell
  deriving DecidableEq, Repr

/-- A channel after reset (R205). -/
def Chan.reset : Chan where
  cfg := Cfg.reset
  state := .idle
  bound := false
  baud := 0
  minFrameUs := 0
  width := 8
  tset := 0
  built := false
  table := ⟨0, 0, 0, 0, 0⟩
  curOffset := 0
  curBits := 0
  curActive := false
  lastStartUs := 0
  started := false
  intEn := false
  fifo := []
  ptq := []
  line := false
  ptTrace := []
  uartTrace := []
  framesStarted := 0
  framesDone := 0
  err := 0
  ibuf := []

/-- The status of a response (R185). -/
inductive Status where
  | ok
  | rejectRange
  | rejectRo
  | rejectBusy
  | hwUnavailable
  | notReady
  | tableErr
  | oversize
  | context
  | illegal
  deriving DecidableEq, Repr

/-- What a command answers: a status and a 32-bit value (R16). -/
structure Response where
  status : Status
  value : Word
  deriving DecidableEq, Repr

/-- The two contexts a command can be issued in (R192). -/
inductive Context where
  | host
  | interrupt
  deriving DecidableEq, Repr

/-- The agents that take steps (R5). -/
inductive Agent where
  | host
  | isr (ch : ChanId)
  | pt (ch : ChanId)
  | uart (ch : ChanId)
  | clock
  deriving DecidableEq, Repr

/-- One command of the host with the response it got (R16, R18). -/
structure HostEvent where
  w0 : Word
  w1 : Word
  response : Response
  deriving DecidableEq, Repr

/-- What the host does past its listed commands: it may stop, and it may go on for ever (R7, R219; log 6). -/
inductive HostPlan where
  /-- It stops, then or before. -/
  | stops
  /-- It issues these commands over and over, and never stops (where there is one). -/
  | repeats (program : List (Word × Word))
  /-- It issues commands of which nothing is known, `Config.hostCommand k` next; it may stop before any of them. -/
  | draws (k : Nat)
  deriving DecidableEq, Repr

/-- The machine. -/
structure State where
  /-- The parameters of the machine; no step writes them (R10, log 1). -/
  params : Params
  /-- The channels, `N_CH` of them (R197). -/
  chans : List Chan
  /-- `TIME_US` (R40). -/
  timeUs : Word
  /-- `GERR`: bit 0 ILLEGAL, bit 1 CONTEXT (R41). -/
  gerr : BitVec 2
  /-- The context that issues the command in hand; host between steps (R192, R205, log 7). -/
  context : Context
  /-- The response of the last command that gave one (R16, log 8). -/
  response : Option Response
  /-- The host's commands with their responses, oldest first: part of the observation (R18, log 8). -/
  hostTrace : List HostEvent
  /-- The commands the host issues next, in order: the program, or the beginning of it (R21, log 6). The model's own
  field. -/
  commands : List (Word × Word)
  /-- What the host does once these are issued (R7, R219, log 6). The model's own field. -/
  onward : HostPlan
  /-- The agents that move next, in order; past its end, or where no agent it names is enabled, the move is free
  (R6, log 5). The model's own field. -/
  schedule : List Agent
  /-- How many free moves were made: when the next free draws are made (R6, log 5). The model's own field. -/
  turn : Nat
  /-- For each agent, by its number, the free move at which its present delay was drawn; 0 where the list ends
  (R7, log 15). The model's own field. -/
  drawn : List Nat
  deriving DecidableEq, Repr

/-- Why the machine can stop. -/
inductive Fault where
  /-- Raised by a read or write of an intensity-buffer cell at or above `BUF_MAX`, which the spec does not give the
  machine (R52). Safe: no state with `BUF_LEN ≤ BUF_MAX` raises it, and CFG_WRITE keeps that (R22; log 11). -/
  | noSuchCell
  deriving DecidableEq, Repr

/-- Why a command can be without a meaning. -/
inductive Refusal where
  /-- Raised by an arm of `exec` whose command has no meaning yet; no arm of this model raises it. Safe: the run stops. -/
  | notModelled (mnemonic : String)
  deriving DecidableEq, Repr

/-- The machine after reset with given parameters and number of channels (R205): nothing to issue and nothing
scheduled (log 5, log 6, log 18). -/
def State.resetWith (p : Params) (nCh : Nat) : State where
  params := p
  chans := List.replicate nCh Chan.reset
  timeUs := 0
  gerr := 0
  context := .host
  response := none
  hostTrace := []
  commands := []
  onward := .stops
  schedule := []
  turn := 0
  drawn := []

/-- The machine after reset (R205), with the parameter values of the last column of R10 (log 1). -/
def State.reset : State := State.resetWith Params.specExample 2

end Sys2Proof.Machine
end

