-- ==== Sys2Proof/Machine/Operands.lean ====
section
/-! DEFINITION. Operand forms and data encodings: bytes of a word (R57), descriptor words (R76), byte-pattern words
(R77), framing words (R78), the BIAS word (R79), the field space (R22, R44, R53) and the legal values of a field
(R22). -/
namespace Sys2Proof.Machine

open Sys2Proof

/-! ## Bits and bytes -/

/-- A bit as a one-bit value. -/
def bit (b : Bool) : BitVec 1 := BitVec.ofBool b

/-- Byte `k` of a word: bits `8k+7 .. 8k` (R57). -/
def byteOf (w : Word) (k : Nat) : Byte := w.extractLsb' (8 * k) 8

/-- Bytes `0 .. n-1` of a word, byte 0 first (R57). -/
def bytesOf (w : Word) (n : Nat) : List Byte := (List.range n).map (byteOf w)

/-- The `w` most significant bits of a byte, most significant first: `s[7], …, s[8-w]` (R55, R132). -/
def bitsOf (w : Nat) (s : Byte) : List Bool := (List.range w).map fun i => s.getMsbD i

/-! ## Descriptor words (R76) -/

/-- `DH`: the duration of the first half, in ticks. -/
def descDh (d : Word) : Nat := (d.extractLsb' 0 15).toNat

/-- `LH`: the level of the first half. -/
def descLh (d : Word) : Bool := d.getLsbD 15

/-- `DL`: the duration of the second half, in ticks. -/
def descDl (d : Word) : Nat := (d.extractLsb' 16 15).toNat

/-- `LL`: the level of the second half. -/
def descLl (d : Word) : Bool := d.getLsbD 31

/-- The largest duration a descriptor holds, `DUR_MAX` (R11, R76). -/
def durMax : Nat := 32767

/-- The descriptor word of two halves, for durations of at most `DUR_MAX` ticks (R76). Every rule that makes an entry
checks its durations first (R105, R120), and `asmDesc` refuses a longer one (R88). -/
def desc (dh : Nat) (lh : Bool) (dl : Nat) (ll : Bool) : Word :=
  bit ll ++ BitVec.ofNat 15 dl ++ bit lh ++ BitVec.ofNat 15 dh

/-- The NULL descriptor: both durations zero, whatever the levels (R103). -/
def isNull (d : Word) : Bool := descDh d == 0 && descDl d == 0

/-! ## Byte-pattern words (R77) -/

/-- The byte-pattern word of four bytes (R77). -/
def pat (b0 b1 b2 b3 : Byte) : Word := b3 ++ b2 ++ b1 ++ b0

/-! ## The BIAS word (R79) -/

/-- Code `i` of a BIAS word: bits `2i+1 .. 2i`. -/
def biasCode (bias : BitVec 18) (i : Nat) : BitVec 2 := bias.extractLsb' (2 * i) 2

/-- The bias in ticks that a code stands for; the reserved code 0b10, which CFG_WRITE keeps out, counts as no bias
(log 13). -/
def biasOfCode (c : BitVec 2) : Int :=
  match c.toNat with
  | 1 => 1
  | 3 => -1
  | _ => 0

/-- Whether CFG_WRITE takes a value for BIAS: no code 0b10 and no bit of 31 .. 18 (R79). -/
def legalBias (v : Word) : Bool :=
  decide (v.toNat < 2 ^ 18) && (List.range 9).all fun i => biasCode (v.setWidth 18) i != 2

/-- The code of a bias; a number that is none of −1, 0 and +1 has no code (R79). -/
def codeOfBias (b : Int) : Option (BitVec 2) :=
  if b = 0 then some 0 else if b = 1 then some 1 else if b = -1 then some 3 else none

/-- The word with codes from code 0 on at bits `1 .. 0`, `3 .. 2`, … (R79). -/
def wordOfCodes (codes : List (BitVec 2)) : Word := codes.foldr (fun c acc => (acc <<< 2) ||| c.setWidth 32) 0

/-! ## Symbols and the timing table (R30, R73) -/

/-- Every symbol, in the order of the ids. -/
def allSyms : List Sym := [.zeroBit, .oneBit, .interframeGap, .startBit, .stopBit]

/-- The index of a symbol: its id (R73). -/
def symIndex : Sym → Nat
  | .zeroBit => 0
  | .oneBit => 1
  | .interframeGap => 2
  | .startBit => 3
  | .stopBit => 4

/-- `TABLE[s]` (R14). -/
def tableGet (t : SymbolTable) : Sym → Word
  | .zeroBit => t.zeroBit
  | .oneBit => t.oneBit
  | .interframeGap => t.interframeGap
  | .startBit => t.startBit
  | .stopBit => t.stopBit

/-- `TABLE[s] <- w`. -/
def tableSet (t : SymbolTable) (s : Sym) (w : Word) : SymbolTable :=
  match s with
  | .zeroBit => { t with zeroBit := w }
  | .oneBit => { t with oneBit := w }
  | .interframeGap => { t with interframeGap := w }
  | .startBit => { t with startBit := w }
  | .stopBit => { t with stopBit := w }

/-! ## The field space (R22, R44, R53) -/

/-- The configuration fields of R22, in the order of their ids 0x00 to 0x20. -/
inductive CfgField where
  | transportKind | periphId | pin | idleLevel | invert | bufLen | groupSize | pumpKind | brightness | fifoThresh
  | xlatEn | bpb | lineBits | dataRate | wordLen | stopBits | tickPs | t0hNs | t0lNs | t1hNs | t1lNs | resetNs
  | starthNs | startlNs | stophNs | stoplNs | bias | preLen | preBytes | appLen | appBytes | grpLen | grpBytes
  deriving DecidableEq, Repr

/-- The status fields of R44: ids 0x40 to 0x53, then 0x60 to 0x65. -/
inductive StatusField where
  | state | active | curOffset | curBits | err | minFrameUs | width | lastStartUs | started | framesStarted | framesDone
  | bound | baud | built | tset | intEn | fifoCount | ptqCount | frameLen | line
  | timeUs | gerr | nCh | fifoDepth | ptDepth | bufMax
  deriving DecidableEq, Repr

/-- What a field id names (R53). -/
inductive FieldName where
  | config (f : CfgField)
  | status (f : StatusField)
  | unknown
  deriving DecidableEq, Repr

/-- The id of a configuration field (R22). -/
def cfgFieldId : CfgField → Nat
  | .transportKind => 0x00 | .periphId => 0x01 | .pin => 0x02 | .idleLevel => 0x03 | .invert => 0x04
  | .bufLen => 0x05 | .groupSize => 0x06 | .pumpKind => 0x07 | .brightness => 0x08 | .fifoThresh => 0x09
  | .xlatEn => 0x0A | .bpb => 0x0B | .lineBits => 0x0C | .dataRate => 0x0D | .wordLen => 0x0E | .stopBits => 0x0F
  | .tickPs => 0x10 | .t0hNs => 0x11 | .t0lNs => 0x12 | .t1hNs => 0x13 | .t1lNs => 0x14 | .resetNs => 0x15
  | .starthNs => 0x16 | .startlNs => 0x17 | .stophNs => 0x18 | .stoplNs => 0x19 | .bias => 0x1A
  | .preLen => 0x1B | .preBytes => 0x1C | .appLen => 0x1D | .appBytes => 0x1E | .grpLen => 0x1F | .grpBytes => 0x20

/-- The id of a status field (R44). -/
def statusFieldId : StatusField → Nat
  | .state => 0x40 | .active => 0x41 | .curOffset => 0x42 | .curBits => 0x43 | .err => 0x44 | .minFrameUs => 0x45
  | .width => 0x46 | .lastStartUs => 0x47 | .started => 0x48 | .framesStarted => 0x49 | .framesDone => 0x4A
  | .bound => 0x4B | .baud => 0x4C | .built => 0x4D | .tset => 0x4E | .intEn => 0x4F | .fifoCount => 0x50
  | .ptqCount => 0x51 | .frameLen => 0x52 | .line => 0x53
  | .timeUs => 0x60 | .gerr => 0x61 | .nCh => 0x62 | .fifoDepth => 0x63 | .ptDepth => 0x64 | .bufMax => 0x65

/-- Every configuration field. -/
def allCfgFields : List CfgField :=
  [.transportKind, .periphId, .pin, .idleLevel, .invert, .bufLen, .groupSize, .pumpKind, .brightness, .fifoThresh,
   .xlatEn, .bpb, .lineBits, .dataRate, .wordLen, .stopBits, .tickPs, .t0hNs, .t0lNs, .t1hNs, .t1lNs, .resetNs,
   .starthNs, .startlNs, .stophNs, .stoplNs, .bias, .preLen, .preBytes, .appLen, .appBytes, .grpLen, .grpBytes]

/-- Every status field. -/
def allStatusFields : List StatusField :=
  [.state, .active, .curOffset, .curBits, .err, .minFrameUs, .width, .lastStartUs, .started, .framesStarted,
   .framesDone, .bound, .baud, .built, .tset, .intEn, .fifoCount, .ptqCount, .frameLen, .line,
   .timeUs, .gerr, .nCh, .fifoDepth, .ptDepth, .bufMax]

/-- What a field id names: a field of R22, a field of R44, or nothing (R53). -/
def fieldOfId (id : Imm16) : FieldName :=
  match allCfgFields.find? (fun f => cfgFieldId f == id.toNat) with
  | some f => .config f
  | none =>
    match allStatusFields.find? (fun f => statusFieldId f == id.toNat) with
    | some f => .status f
    | none => .unknown

/-! ## Codes of the enumerated fields (R15, R22, R24, R185) -/

/-- PULSE = 0, BYTE = 1 (R15). -/
def kindCode : Kind → BitVec 1
  | .pulse => 0
  | .byte => 1

/-- The kind a code stands for (R15). -/
def kindOfCode (c : BitVec 1) : Kind := if c = 0 then .pulse else .byte

/-- PIXEL = 0, SERIAL = 1 (R15). -/
def pumpKindCode : PumpKind → BitVec 1
  | .pixel => 0
  | .serial => 1

/-- The pump a code stands for (R15). -/
def pumpKindOfCode (c : BitVec 1) : PumpKind := if c = 0 then .pixel else .serial

/-- IDLE = 0, ARMED = 1, STREAMING = 2, PAUSED = 3 (R15, R24). -/
def frameStateCode : FrameState → BitVec 2
  | .idle => 0
  | .armed => 1
  | .streaming => 2
  | .paused => 3

/-- The 8-bit status codes (R185). -/
def statusCode : Status → BitVec 8
  | .ok => 0x00
  | .rejectRange => 0x01
  | .rejectRo => 0x02
  | .rejectBusy => 0x03
  | .hwUnavailable => 0x04
  | .notReady => 0x05
  | .tableErr => 0x06
  | .oversize => 0x07
  | .context => 0x08
  | .illegal => 0x09

/-! ## Reading and writing configuration fields -/

/-- `zext_32(cfg.F)` (R93). -/
def cfgGet (c : Cfg) : CfgField → Word
  | .transportKind => (kindCode c.transportKind).setWidth 32
  | .periphId => c.periphId.setWidth 32
  | .pin => c.pin.setWidth 32
  | .idleLevel => (bit c.idleLevel).setWidth 32
  | .invert => (bit c.invert).setWidth 32
  | .bufLen => c.bufLen.setWidth 32
  | .groupSize => c.groupSize.setWidth 32
  | .pumpKind => (pumpKindCode c.pumpKind).setWidth 32
  | .brightness => c.brightness.setWidth 32
  | .fifoThresh => c.fifoThresh.setWidth 32
  | .xlatEn => (bit c.xlatEn).setWidth 32
  | .bpb => c.bpb.setWidth 32
  | .lineBits => c.lineBits.setWidth 32
  | .dataRate => c.dataRate
  | .wordLen => c.wordLen.setWidth 32
  | .stopBits => c.stopBits.setWidth 32
  | .tickPs => c.tickPs
  | .t0hNs => c.t0hNs
  | .t0lNs => c.t0lNs
  | .t1hNs => c.t1hNs
  | .t1lNs => c.t1lNs
  | .resetNs => c.resetNs
  | .starthNs => c.starthNs
  | .startlNs => c.startlNs
  | .stophNs => c.stophNs
  | .stoplNs => c.stoplNs
  | .bias => c.bias.setWidth 32
  | .preLen => c.preLen.setWidth 32
  | .preBytes => c.preBytes
  | .appLen => c.appLen.setWidth 32
  | .appBytes => c.appBytes
  | .grpLen => c.grpLen.setWidth 32
  | .grpBytes => c.grpBytes

/-- `cfg.F <- v`, for a legal value, which fits the field's width (R91). -/
def cfgSet (c : Cfg) (f : CfgField) (v : Word) : Cfg :=
  match f with
  | .transportKind => { c with transportKind := kindOfCode (v.setWidth 1) }
  | .periphId => { c with periphId := v.setWidth 8 }
  | .pin => { c with pin := v.setWidth 8 }
  | .idleLevel => { c with idleLevel := v.getLsbD 0 }
  | .invert => { c with invert := v.getLsbD 0 }
  | .bufLen => { c with bufLen := v.setWidth 17 }
  | .groupSize => { c with groupSize := v.setWidth 8 }
  | .pumpKind => { c with pumpKind := pumpKindOfCode (v.setWidth 1) }
  | .brightness => { c with brightness := v.setWidth 9 }
  | .fifoThresh => { c with fifoThresh := v.setWidth 16 }
  | .xlatEn => { c with xlatEn := v.getLsbD 0 }
  | .bpb => { c with bpb := v.setWidth 3 }
  | .lineBits => { c with lineBits := v.setWidth 8 }
  | .dataRate => { c with dataRate := v }
  | .wordLen => { c with wordLen := v.setWidth 4 }
  | .stopBits => { c with stopBits := v.setWidth 2 }
  | .tickPs => { c with tickPs := v }
  | .t0hNs => { c with t0hNs := v }
  | .t0lNs => { c with t0lNs := v }
  | .t1hNs => { c with t1hNs := v }
  | .t1lNs => { c with t1lNs := v }
  | .resetNs => { c with resetNs := v }
  | .starthNs => { c with starthNs := v }
  | .startlNs => { c with startlNs := v }
  | .stophNs => { c with stophNs := v }
  | .stoplNs => { c with stoplNs := v }
  | .bias => { c with bias := v.setWidth 18 }
  | .preLen => { c with preLen := v.setWidth 3 }
  | .preBytes => { c with preBytes := v }
  | .appLen => { c with appLen := v.setWidth 3 }
  | .appBytes => { c with appBytes := v }
  | .grpLen => { c with grpLen := v.setWidth 3 }
  | .grpBytes => { c with grpBytes := v }

/-- `lo ≤ v ≤ hi`. -/
def between (lo hi : Nat) (v : Word) : Bool := decide (lo ≤ v.toNat) && decide (v.toNat ≤ hi)

/-- `legal(F, v)`: the legal values of R22, and R79 for BIAS. -/
def legalValue (p : Params) (f : CfgField) (v : Word) : Bool :=
  match f with
  | .transportKind | .idleLevel | .invert | .pumpKind | .xlatEn => between 0 1 v
  | .periphId => decide (v.toNat < p.periphKind.length)
  | .pin => decide (v.toNat < p.nPin)
  | .bufLen => between 0 p.bufMax v
  | .groupSize => between 0 255 v
  | .brightness => between 0 256 v
  | .fifoThresh => between 0 p.fifoDepth v
  | .bpb => between 1 4 v
  | .lineBits => between 1 255 v
  | .dataRate | .tickPs => between 1 (2 ^ 32 - 1) v
  | .wordLen => between 5 8 v
  | .stopBits => between 1 2 v
  | .t0hNs | .t0lNs | .t1hNs | .t1lNs | .resetNs | .starthNs | .startlNs | .stophNs | .stoplNs => true
  | .bias => legalBias v
  | .preLen | .appLen | .grpLen => between 0 4 v
  | .preBytes | .appBytes | .grpBytes => true

/-- Class T: the fields the timing table is computed from (R22, R23). -/
def isTableInput : CfgField → Bool
  | .transportKind | .idleLevel | .invert | .tickPs | .t0hNs | .t0lNs | .t1hNs | .t1lNs | .resetNs | .starthNs
  | .startlNs | .stophNs | .stoplNs | .bias => true
  | _ => false

/-- Class B: the fields BEGIN consumes (R22, R23). -/
def isBindField : CfgField → Bool
  | .transportKind | .periphId | .pin | .idleLevel | .invert | .lineBits | .dataRate | .wordLen | .stopBits => true
  | _ => false

end Sys2Proof.Machine
end

