-- ==== Sys2Proof/Machine/Flags.lean ====
section
/-! DEFINITION. The block's flags and the conditions computed from state (R46): sticky error bits (R186), TSET (R29),
the interrupt condition (R155) and the pacer test (R172). -/
namespace Sys2Proof.Machine

open Sys2Proof

/-- `ERR.PRECOND` (R186). -/
def errPrecond : BitVec 3 := 1

/-- `ERR.OVERREAD` (R186). -/
def errOverread : BitVec 3 := 2

/-- `ERR.OVERSIZE` (R186). -/
def errOversize : BitVec 3 := 4

/-- `GERR.ILLEGAL` (R186). -/
def gerrIllegal : BitVec 2 := 1

/-- `GERR.CONTEXT` (R186). -/
def gerrContext : BitVec 2 := 2

/-- `TSET[s]` (R29). -/
def tsetGet (t : BitVec 5) (s : Sym) : Bool := t.getLsbD (symIndex s)

/-- `TSET[s] <- 1` (R29). -/
def tsetMark (t : BitVec 5) (s : Sym) : BitVec 5 := t ||| ((1 : BitVec 5) <<< symIndex s)

/-- Every symbol set (R29, R105). -/
def tsetFull : BitVec 5 := 0b11111

/-- `IRQ(ch)`: the FIFO-threshold interrupt is pending (R155). A level condition, not stored (R47). -/
def irqPending (c : Chan) : Bool :=
  c.intEn && (decide (c.fifo.length < c.cfg.fifoThresh.toNat) || c.fifo.isEmpty)

/-- `canStart(ch, now)`: no frame was started since reset, or the 32-bit wrap-around difference reaches
`MIN_FRAME_US` (R172). -/
def canStart (c : Chan) (now : Word) : Bool :=
  !c.started || decide (c.minFrameUs.toNat ≤ (now - c.lastStartUs).toNat)

end Sys2Proof.Machine
end

