-- ==== Sys2Proof/Machine/Ops.lean ====
section
/-! DEFINITION. The shared operations over the state: the intensity-buffer RAM (R52), the channels, responses and the
raising of errors with their sticky bits (R14, R185, R186), interrupt entry and return (R189, R190), unbinding (R92)
and the output traces (R38). -/
namespace Sys2Proof.Machine

open Sys2Proof

/-- What a command's meaning answers. -/
abbrev Result := Host.Outcome State Fault Refusal

/-! ## Intensity-buffer RAM

The RAM is the list of the cells written since reset, addresses strictly rising. An unlisted cell has no value of its
own in the list: it holds the draw `Config.ibufInit` (R43, log 4). -/

/-- The canonical form: addresses strictly rising. (An unlisted address has no entry's value, so no entry repeats it.) -/
def memWf : List Host.Cell → Bool
  | [] => true
  | [_] => true
  | x :: y :: rest => decide (x.1 < y.1) && memWf (y :: rest)

/-- The byte written last to an address since reset, none if nothing was. -/
def memFind (m : List Host.Cell) (a : Nat) : Option Byte :=
  match m with
  | [] => none
  | (b, v) :: rest => if a = b then some v else if a < b then none else memFind rest a

/-- Put a byte at an address, keeping the canonical form. -/
def memPut (m : List Host.Cell) (a : Nat) (v : Byte) : List Host.Cell :=
  match m with
  | [] => [(a, v)]
  | (b, w) :: rest =>
    if a = b then (a, v) :: rest else if a < b then (a, v) :: (b, w) :: rest else (b, w) :: memPut rest a v

/-- The byte a cell holds: what was written to it last since reset, or else its `IBUF_INIT` draw (R43). -/
def cellByte (ch : ChanId) (c : Chan) (a : Nat) : Byte :=
  (memFind c.ibuf a).getD (Config.ibufInit ch.toNat a)

/-- `MemRead(ch, a, 1)`, for `a < BUF_MAX`; the RAM has no other cell (R52, log 11). -/
def memRead (p : Params) (ch : ChanId) (c : Chan) (a : Nat) : Except Fault Byte :=
  if a < p.bufMax then .ok (cellByte ch c a) else .error .noSuchCell

/-- `MemWrite(ch, a, 1, v)`, for `a < BUF_MAX`; the RAM has no other cell (R52, log 11). -/
def memWrite (p : Params) (c : Chan) (a : Nat) (v : Byte) : Except Fault Chan :=
  if a < p.bufMax then .ok { c with ibuf := memPut c.ibuf a v } else .error .noSuchCell

/-! ## Channels -/

/-- `N_CH` (R10). -/
def State.nCh (s : State) : Nat := s.chans.length

/-- Channel `ch`. (A channel number at or above `N_CH` names none; every meaning checks it first, by `withChannel`.) -/
def State.chan (s : State) (ch : ChanId) : Chan := s.chans.getD ch.toNat Chan.reset

/-- The state with channel `ch` replaced. -/
def State.setChan (s : State) (ch : ChanId) (c : Chan) : State := { s with chans := s.chans.set ch.toNat c }

/-- The byte cell `a` of channel `ch` holds. -/
def State.cell (s : State) (ch : ChanId) (a : Nat) : Byte := cellByte ch (s.chan ch) a

/-! ## Responses and errors -/

/-- `respond(status, value)` (R14). -/
def State.respond (s : State) (status : Status) (value : Word) : State :=
  { s with response := some ⟨status, value⟩ }

/-- The sticky error bits (R186). -/
inductive Sticky where
  | precond (ch : ChanId)
  | overread (ch : ChanId)
  | oversize (ch : ChanId)
  | illegal
  | context
  deriving DecidableEq, Repr

/-- Set a sticky bit (R186). -/
def State.setSticky (s : State) : Sticky → State
  | .precond ch => s.setChan ch { s.chan ch with err := (s.chan ch).err ||| errPrecond }
  | .overread ch => s.setChan ch { s.chan ch with err := (s.chan ch).err ||| errOverread }
  | .oversize ch => s.setChan ch { s.chan ch with err := (s.chan ch).err ||| errOversize }
  | .illegal => { s with gerr := s.gerr ||| gerrIllegal }
  | .context => { s with gerr := s.gerr ||| gerrContext }

/-- `raise <Status>(sticky)`: the one way a command ends in an error that a sticky bit records. It sets the bit and
answers the status with value 0; nothing else changes (R14, R186). -/
def State.raise (s : State) (bit : Sticky) (status : Status) : State := (s.setSticky bit).respond status 0

/-- `REJECT_BUSY`: the channel is not IDLE (R97, R185). -/
def State.rejectBusy (s : State) (ch : ChanId) : State := s.raise (.precond ch) .rejectBusy

/-- `ILLEGAL` (R84). -/
def State.illegal (s : State) : State := s.raise .illegal .illegal

/-- `CONTEXT`: a command of the interrupt context issued by the host (R84, R192). -/
def State.contextRefused (s : State) : State := s.raise .context .context

/-- The channel check of R84, then the command's own rule on that channel. -/
def withChannel (ch : ChanId) (s : State) (k : Chan → Result) : Result :=
  if ch.toNat < s.nCh then k (s.chan ch) else .next s.illegal

/-- The context check of R84 and R192: the host gets CONTEXT, the interrupt context gets the command's rule. -/
def interruptOnly (s : State) (k : Result) : Result :=
  match s.context with
  | .host => .next s.contextRefused
  | .interrupt => k

/-! ## Interrupt entry and return (R189, R190)

Taking the FIFO-threshold interrupt saves nothing, changes no mask and goes to no vector: the channel's handler runs
in the interrupt context. Its return restores nothing: the host context is in force again. -/

/-- Taking the interrupt (R189). -/
def State.enterInterrupt (s : State) : State := { s with context := .interrupt }

/-- Returning from it (R190). -/
def State.leaveInterrupt (s : State) : State := { s with context := .host }

/-! ## Per-channel operations used by several commands -/

/-- `unbind(ch)` (R92). -/
def unbind (c : Chan) : Chan := { c with bound := false, intEn := false, fifo := [], ptq := [] }

/-- `emit(PT_TRACE(ch), e)` (R14). -/
def emitPt (c : Chan) (e : PtEvent) : Chan := { c with ptTrace := c.ptTrace ++ [e] }

/-- `emit(UART_TRACE(ch), e)` (R14). -/
def emitUart (c : Chan) (e : UartEvent) : Chan := { c with uartTrace := c.uartTrace ++ [e] }

/-- A response value that is a truth value: 1 for true, 0 for false (R17). -/
def boolWord (b : Bool) : Word := if b then 1 else 0

end Sys2Proof.Machine
end

