-- ==== Sys2Proof/Machine/FramePump.lean ====
section
/-! DEFINITION. The Frame Pump, the Frame Pacer and the timebase (45_frame_pump_pacer.md): the frame image (R165), the
pump's primitives and commands (R166 to R169), the pacer's (R170 to R172), brightness scaling (R168) and the CLOCK
step (R181). -/
namespace Sys2Proof.Machine

open Sys2Proof

/-! ## The frame image (R165) -/

/-- One position of the frame image: a framing byte, or an intensity cell. -/
inductive Slot where
  | framing (b : Byte)
  | cell (i : Nat)
  deriving DecidableEq, Repr

/-- Unity, the multiplier of framing bytes (R165). -/
def unity : Multiplier := 256

/-- `bytes_of(WORD, LEN)` (R165, R78). -/
def framingSlots (w : Word) (n : BitVec 3) : List Slot := (bytesOf w n.toNat).map .framing

/-- `grp(i)`: the group preamble before value `i`, where a group begins (R165). -/
def groupPreamble (c : Cfg) (i : Nat) : List Slot :=
  if 0 < c.groupSize.toNat ∧ i % c.groupSize.toNat = 0 then framingSlots c.grpBytes c.grpLen else []

/-- The positions of `frame(ch)`, in order (R165). -/
def frameSlots (c : Cfg) : List Slot :=
  framingSlots c.preBytes c.preLen ++
  (match c.pumpKind with
   | .pixel => (List.range c.bufLen.toNat).flatMap fun i => groupPreamble c i ++ [.cell i]
   | .serial => (List.range c.bufLen.toNat).map .cell) ++
  framingSlots c.appBytes c.appLen

/-- `L(ch)`, the frame length, by the formula of R165; it is the status field FRAME_LEN (R44). -/
def frameLen (c : Cfg) : Nat :=
  c.preLen.toNat + c.bufLen.toNat + c.appLen.toNat +
  (match c.pumpKind with
   | .pixel =>
     if 0 < c.groupSize.toNat then
       ((c.bufLen.toNat + c.groupSize.toNat - 1) / c.groupSize.toNat) * c.grpLen.toNat
     else 0
   | .serial => 0)

/-- The `(byte, multiplier)` pair at a position: a framing byte at unity, or the intensity cell at BRIGHTNESS
(R165). -/
def slotPair (p : Params) (ch : ChanId) (c : Chan) : Slot → Except Fault (Byte × Multiplier)
  | .framing b => .ok (b, unity)
  | .cell i =>
    match memRead p ch c i with
    | .ok v => .ok (v, c.cfg.brightness)
    | .error f => .error f

/-! ## Pump primitives -/

/-- `PUMP_START(ch)` (R166). -/
def pumpStart (c : Chan) : Chan := { c with curOffset := 0, curBits := 0 }

/-- `PUMP_MORE(ch)` (R167). -/
def pumpMore (c : Chan) : Bool := decide (c.curOffset.toNat < frameLen c.cfg)

/-- `PUMP_NEXT(ch)` (R169): the pair at the cursor, which advances; past the end `(0, 256)`, the cursor unchanged and
`ERR.OVERREAD` set. -/
def pumpNext (p : Params) (ch : ChanId) (c : Chan) : Except Fault ((Byte × Multiplier) × Chan) :=
  match (frameSlots c.cfg)[c.curOffset.toNat]? with
  | some slot =>
    match slotPair p ch c slot with
    | .ok vm => .ok (vm, { c with curOffset := c.curOffset + 1 })
    | .error f => .error f
  | none => .ok ((0, unity), { c with err := c.err ||| errOverread })

/-- `SCALE(v, m)` (R168): unity leaves the byte alone, whatever the function; otherwise the spec's default
`(v × m) div 256`, or a function of which nothing is known (log 2). -/
def scale (f : ScaleFn) (v : Byte) (m : Multiplier) : Byte :=
  if m = unity then v
  else
    match f with
    | .standard => BitVec.ofNat 8 (v.toNat * m.toNat / 256)
    | .other k => Config.scaleOther k v m

/-! ## Pacer primitives and the timebase -/

/-- `PACER_RECORD(ch)` at time `now` (R171). -/
def pacerRecord (now : Word) (c : Chan) : Chan := { c with lastStartUs := now, started := true }

/-- The CLOCK step (R181). -/
def clockTick (s : State) : State := { s with timeUs := s.timeUs + 1 }

/-! ## The commands -/

/-- PUMP_START ch (R166): an interrupt-context command without a response (log 9). -/
def execPumpStart (ch : ChanId) (s : State) : Result :=
  withChannel ch s fun c => interruptOnly s (.next (s.setChan ch (pumpStart c)))

/-- PUMP_MORE ch (R167). -/
def execPumpMore (ch : ChanId) (s : State) : Result :=
  withChannel ch s fun c => .next (s.respond .ok (boolWord (pumpMore c)))

/-- PUMP_NEXT ch (R169): an interrupt-context command that answers `{m[8:0], v[7:0]}`. -/
def execPumpNext (ch : ChanId) (s : State) : Result :=
  withChannel ch s fun c =>
    interruptOnly s
      (match pumpNext s.params ch c with
       | .ok ((v, m), c') => .next ((s.setChan ch c').respond .ok ((m ++ v).setWidth 32))
       | .error f => .fault f)

/-- PACER_QUERY ch (R170). -/
def execPacerQuery (ch : ChanId) (s : State) : Result :=
  withChannel ch s fun c => .next (s.respond .ok (boolWord (canStart c s.timeUs)))

/-- PACER_RECORD ch (R171): an interrupt-context command without a response (log 9). -/
def execPacerRecord (ch : ChanId) (s : State) : Result :=
  withChannel ch s fun c => interruptOnly s (.next (s.setChan ch (pacerRecord s.timeUs c)))

end Sys2Proof.Machine
end

