-- ==== Sys2Proof/Machine/ConfigBuffer.lean ====
section
/-! DEFINITION. The configuration and intensity-buffer commands (40_config_and_buffer.md): NOP, CFG_WRITE, CFG_READ,
BUF_WRITE and BUF_READ. -/
namespace Sys2Proof.Machine

open Sys2Proof

/-- A write of field `f` with its side effects (R91, R92): a table input clears BUILT, TRANSPORT_KIND clears TSET, a
bind field unbinds a bound channel. -/
def writeField (c : Chan) (f : CfgField) (v : Word) : Chan :=
  let c := { c with cfg := cfgSet c.cfg f v }
  let c := if isTableInput f then { c with built := false } else c
  let c := if f = .transportKind then { c with tset := 0 } else c
  if isBindField f ∧ c.bound then unbind c else c

/-- A count as a 32-bit value, modulo 2^32 (log 21). -/
def countWord (n : Nat) : Word := BitVec.ofNat 32 n

/-- The value of a status field, zero-extended (R44). -/
def statusValue (s : State) (c : Chan) : StatusField → Word
  | .state => (frameStateCode c.state).setWidth 32
  | .active => boolWord c.curActive
  | .curOffset => c.curOffset
  | .curBits => c.curBits.setWidth 32
  | .err => c.err.setWidth 32
  | .minFrameUs => c.minFrameUs
  | .width => c.width.setWidth 32
  | .lastStartUs => c.lastStartUs
  | .started => boolWord c.started
  | .framesStarted => c.framesStarted
  | .framesDone => c.framesDone
  | .bound => boolWord c.bound
  | .baud => c.baud
  | .built => boolWord c.built
  | .tset => c.tset.setWidth 32
  | .intEn => boolWord c.intEn
  | .fifoCount => countWord c.fifo.length
  | .ptqCount => countWord c.ptq.length
  | .frameLen => countWord (frameLen c.cfg)
  | .line => boolWord c.line
  | .timeUs => s.timeUs
  | .gerr => s.gerr.setWidth 32
  | .nCh => countWord s.nCh
  | .fifoDepth => countWord s.params.fifoDepth
  | .ptDepth => countWord s.params.ptDepth
  | .bufMax => countWord s.params.bufMax

/-- NOP (R90). -/
def execNop (s : State) : Result := .next (s.respond .ok 0)

/-- CFG_WRITE ch, FIELD, value (R91): target checks, then busy, then value. -/
def execCfgWrite (ch : ChanId) (field : Imm16) (value : Word) (s : State) : Result :=
  withChannel ch s fun c =>
    match fieldOfId field with
    | .status _ => .next (s.respond .rejectRo 0)
    | .unknown => .next (s.respond .rejectRange 0)
    | .config f =>
      if c.state ≠ .idle then .next (s.rejectBusy ch)
      else if legalValue s.params f value then .next ((s.setChan ch (writeField c f value)).respond .ok 0)
      else .next (s.respond .rejectRange 0)

/-- CFG_READ ch, FIELD (R93). -/
def execCfgRead (ch : ChanId) (field : Imm16) (s : State) : Result :=
  withChannel ch s fun c =>
    match fieldOfId field with
    | .config f => .next (s.respond .ok (cfgGet c.cfg f))
    | .status f => .next (s.respond .ok (statusValue s c f))
    | .unknown => .next (s.respond .rejectRange 0)

/-- BUF_WRITE ch, addr, byte (R94). -/
def execBufWrite (ch : ChanId) (addr : Imm16) (data : Byte) (s : State) : Result :=
  withChannel ch s fun c =>
    if c.cfg.bufLen.toNat ≤ addr.toNat then .next (s.respond .rejectRange 0)
    else if c.state ≠ .idle then .next (s.rejectBusy ch)
    else
      match memWrite s.params c addr.toNat data with
      | .ok c' => .next ((s.setChan ch c').respond .ok 0)
      | .error f => .fault f

/-- BUF_READ ch, addr (R95). -/
def execBufRead (ch : ChanId) (addr : Imm16) (s : State) : Result :=
  withChannel ch s fun c =>
    if c.cfg.bufLen.toNat ≤ addr.toNat then .next (s.respond .rejectRange 0)
    else
      match memRead s.params ch c addr.toNat with
      | .ok v => .next (s.respond .ok (v.setWidth 32))
      | .error f => .fault f

end Sys2Proof.Machine
end

