-- ==== Sys2Proof/Machine/PulseTrain.lean ====
section
/-! DEFINITION. The pulse-train path (43_pulse_train.md): the translation of a frame into items (R132 to R137) and the
step of the pulse peripheral (R138 to R142). -/
namespace Sys2Proof.Machine

open Sys2Proof

/-- The entry a bit selects (R133). -/
def symbolOfBit (t : SymbolTable) (b : Bool) : Word := if b then t.oneBit else t.zeroBit

/-- An entry as an item, or nothing where it is NULL (R135). -/
def markerItems (w : Word) : List Word := if isNull w then [] else [w]

/-- The items of one scaled byte: its `W` most significant bits, most significant first (R132, R133). -/
def byteItems (t : SymbolTable) (w : Nat) (s : Byte) : List Word := (bitsOf w s).map (symbolOfBit t)

/-- The `while PUMP_MORE(ch)` loop of R135, for at most `fuel` rounds: the items appended to `acc`, and the channel
with its cursor where the loop leaves it. A frame takes `L` rounds (R136). -/
def translateLoop (p : Params) (ch : ChanId) : Nat → Chan → List Word → Except Fault (List Word × Chan)
  | 0, c, acc => .ok (acc, c)
  | fuel + 1, c, acc =>
    if pumpMore c then
      match pumpNext p ch c with
      | .ok ((v, m), c') =>
        translateLoop p ch fuel c' (acc ++ byteItems c.table c.width.toNat (scale p.scale v m))
      | .error f => .error f
    else .ok (acc, c)

/-- `pulse_sequence(ch)`, and the channel with its cursor at the end of the frame (R135). -/
def pulseSequence (p : Params) (ch : ChanId) (c : Chan) : Except Fault (List Word × Chan) :=
  match translateLoop p ch (frameLen c.cfg) c (markerItems c.table.startBit) with
  | .ok (seq, c') => .ok (seq ++ markerItems c.table.stopBit ++ markerItems c.table.interframeGap, c')
  | .error f => .error f

/-- `nn(s)`: 1 if an entry is not NULL, else 0 (R136). -/
def notNullCount (w : Word) : Nat := if isNull w then 0 else 1

/-- `pulse_item_count(ch)`, by the formula of R136. -/
def pulseItemCount (c : Chan) : Nat :=
  notNullCount c.table.startBit + frameLen c.cfg * c.width.toNat + notNullCount c.table.stopBit +
  notNullCount c.table.interframeGap

/-! ## The pulse peripheral -/

/-- One half of a descriptor: a segment, unless its duration is zero (R141). -/
def emitHalf (c : Chan) (level : Bool) (ticks : Nat) : Chan :=
  if 0 < ticks then { emitPt c (.seg level ticks) with line := level } else c

/-- `emit_item(ch, d)`: the high half, then the low half (R141). -/
def emitItem (c : Chan) (d : Word) : Chan :=
  emitHalf (emitHalf c (descLh d) (descDh d)) (descLl d) (descDl d)

/-- The frame is drained: the line rests, the channel is IDLE and the frame is counted (R140). -/
def finishPulseFrame (c : Chan) : Chan :=
  { c with line := c.cfg.idleLevel, state := .idle, curActive := false, framesDone := c.framesDone + 1 }

/-- `PT_EMIT`, one step of `PT(ch)` (R140). -/
def ptEmit (c : Chan) : Chan :=
  match c.ptq with
  | [] => c
  | d :: rest =>
    let c := emitItem { c with ptq := rest } d
    let c := if c.state = .armed then { c with state := .streaming } else c
    if rest = [] then finishPulseFrame c else c

end Sys2Proof.Machine
end

