-- ==== Sys2Proof/Machine/ByteSerial.lean ====
section
/-! DEFINITION. The byte-serial path (44_byte_serial.md): the refill (R151 to R154), the step of the byte-serial
peripheral (R156) and the wire form of a byte (R157). -/
namespace Sys2Proof.Machine

open Sys2Proof

/-- The baud rate BEGIN computes, before it is checked against `BAUD_MAX` (R150). -/
def baudProduct (c : Cfg) : Nat := c.lineBits.toNat * c.dataRate.toNat

/-- `per`: the FIFO bytes one intensity value occupies (R152). -/
def bytesPerValue (c : Chan) : Nat := if c.cfg.xlatEn then c.cfg.bpb.toNat * c.width.toNat else 1

/-- The FIFO bytes of one scaled value: for each translated bit the first BPB bytes of its pattern, byte 0 first
(R153), or the value itself in direct mode (R154). -/
def valueBytes (c : Chan) (s : Byte) : List Byte :=
  if c.cfg.xlatEn then
    (bitsOf c.width.toNat s).flatMap fun b => bytesOf (symbolOfBit c.table b) c.cfg.bpb.toNat
  else [s]

/-- The `while k < n and PUMP_MORE(ch)` loop of R151, for `n` values. -/
def refillLoop (p : Params) (ch : ChanId) : Nat → Chan → Except Fault Chan
  | 0, c => .ok c
  | n + 1, c =>
    if pumpMore c then
      match pumpNext p ch c with
      | .ok ((v, m), c') => refillLoop p ch n { c' with fifo := c'.fifo ++ valueBytes c' (scale p.scale v m) }
      | .error f => .error f
    else .ok c

/-- How many whole values fit into the free FIFO slots (R151, R152). -/
def valuesThatFit (p : Params) (c : Chan) : Nat := (p.fifoDepth - c.fifo.length) / bytesPerValue c

/-- The terminal transition of a byte-serial frame (R151, R158). -/
def finishByteFrame (c : Chan) : Chan :=
  { c with intEn := false, state := .idle, curActive := false, framesDone := c.framesDone + 1 }

/-- The refill of R151 on a channel whose interrupt is pending. -/
def refill (p : Params) (ch : ChanId) (c : Chan) : Except Fault Chan :=
  match refillLoop p ch (valuesThatFit p c) c with
  | .ok c' =>
    let c'' := if c.fifo.length < c'.fifo.length ∧ c'.state = .armed then { c' with state := .streaming } else c'
    .ok (if pumpMore c'' then c'' else finishByteFrame c'')
  | .error f => .error f

/-- ISR_FILL ch (R151): an interrupt-context command without a response. It has a step only where `IRQ(ch)` holds;
elsewhere it changes nothing (log 9, log 10). -/
def execIsrFill (ch : ChanId) (s : State) : Result :=
  withChannel ch s fun c =>
    interruptOnly s
      (if irqPending c then
        match refill s.params ch c with
        | .ok c' => .next (s.setChan ch c')
        | .error f => .fault f
      else .next s)

/-- `UART_DRAIN`, one step of `UART(ch)` (R156). -/
def uartDrain (c : Chan) : Chan :=
  match c.fifo with
  | [] => c
  | b :: rest => emitUart { c with fifo := rest } (.byte b)

/-- The line levels of one byte (R157, informative; general knowledge by the spec's own mark; log 20): a start bit at 0, the
low WORD_LEN bits least significant first, STOP_BITS stop bits at 1, and INVERT turning every level over. No step
uses it: the observation is the `Byte` event. -/
def wireLevels (wordLen : BitVec 4) (stopBits : BitVec 2) (invert : Bool) (b : Byte) : List Bool :=
  (false :: ((List.range wordLen.toNat).map b.getLsbD ++ List.replicate stopBits.toNat true)).map (· ^^ invert)

end Sys2Proof.Machine
end

