-- ==== Sys2Proof/Machine/TimingTable.lean ====
section
/-! DEFINITION. The protocol timing table (41_timing_table.md): tick conversion (R101), construction (R102 to R105) and
the commands TABLE_BUILD, SET_SYMBOL and LOOKUP. -/
namespace Sys2Proof.Machine

open Sys2Proof

/-- `ticks(ns, b)` at a tick of `tickPs` picoseconds: the truncated quotient plus the bias (R101, log 19). -/
def ticksOf (tickPs ns : Word) (b : Int) : Int := ((ns.toNat * 1000 / tickPs.toNat : Nat) : Int) + b

/-- `valid(ns, b)` (R101). -/
def validTicks (tickPs ns : Word) (b : Int) : Bool :=
  decide (1 ≤ tickPs.toNat) && decide (0 ≤ ticksOf tickPs ns b) && decide (ticksOf tickPs ns b ≤ (durMax : Int))

/-- The nine nanosecond constants, in the order of the BIAS codes (R79). -/
def nsConstant (c : Cfg) (i : Nat) : Word :=
  match i with
  | 0 => c.t0hNs
  | 1 => c.t0lNs
  | 2 => c.t1hNs
  | 3 => c.t1lNs
  | 4 => c.resetNs
  | 5 => c.starthNs
  | 6 => c.startlNs
  | 7 => c.stophNs
  | _ => c.stoplNs

/-- The bias of constant `i` (R79). -/
def nsBias (c : Cfg) (i : Nat) : Int := biasOfCode (biasCode c.bias i)

/-- Whether constant `i` converts to a legal duration (R101). -/
def constantValid (c : Cfg) (i : Nat) : Bool := validTicks c.tickPs (nsConstant c i) (nsBias c i)

/-- `t(F)` for constant `i`, a number of ticks where the constant is valid (R102). -/
def constantTicks (c : Cfg) (i : Nat) : Nat := (ticksOf c.tickPs (nsConstant c i) (nsBias c i)).toNat

/-- `GAP_TICKS(min_frame_us, reset_ticks, tick_ps)`: the spec's default, or a function of which nothing is known
(R104, log 3). -/
def gapTicks (f : GapFn) (minFrameUs resetTicks tickPs : Nat) : Nat :=
  match f with
  | .standard => resetTicks
  | .other k => Config.gapOther k minFrameUs resetTicks tickPs

/-- The gap, in ticks, for a minimum frame duration `us` (R102, R120). -/
def gapFor (p : Params) (c : Cfg) (us : Word) : Nat := gapTicks p.gap us.toNat (constantTicks c 4) c.tickPs.toNat

/-- Whether a gap fits: 1 to `DUR_MAX` ticks (R104). -/
def gapFits (g : Nat) : Bool := decide (1 ≤ g) && decide (g ≤ durMax)

/-- The gap entry: the idle level held for `g` ticks (R102). -/
def gapEntry (c : Cfg) (g : Nat) : Word := desc 0 c.idleLevel g c.idleLevel

/-- An entry of a high half and a low half, both levels inverted by INVERT (R102). -/
def pulseEntry (c : Cfg) (hi lo : Nat) : Word :=
  desc (constantTicks c hi) (true ^^ c.invert) (constantTicks c lo) (false ^^ c.invert)

/-- The five entries of R102. -/
def pulseTable (c : Cfg) (g : Nat) : SymbolTable where
  zeroBit := pulseEntry c 0 1
  oneBit := pulseEntry c 2 3
  interframeGap := gapEntry c g
  startBit := pulseEntry c 5 6
  stopBit := pulseEntry c 7 8

/-- Construction of a pulse-train table: the entries, or the reason of TABLE_ERR, the first failing check deciding
(R105). -/
def buildPulse (p : Params) (c : Chan) : Except Word SymbolTable :=
  if c.cfg.tickPs = 0 then .error 0x0100
  else
    match (List.range 9).find? (fun i => !constantValid c.cfg i) with
    | some i => .error (BitVec.ofNat 32 (0x0200 + i))
    | none =>
      let g := gapFor p c.cfg c.minFrameUs
      let t := pulseTable c.cfg g
      if !gapFits g then .error 0x0500
      else if isNull t.zeroBit then .error 0x0300
      else if isNull t.oneBit then .error 0x0301
      else .ok t

/-- Construction of a byte-serial table: its entries as they stand, or the reason of TABLE_ERR (R105). -/
def buildByte (c : Chan) : Except Word SymbolTable :=
  match allSyms.find? (fun s => !tsetGet c.tset s) with
  | some s => .error (BitVec.ofNat 32 (0x0400 + symIndex s))
  | none => .ok c.table

/-- Construction by the channel's transport (R100, R105). -/
def buildTable (p : Params) (c : Chan) : Except Word SymbolTable :=
  match c.cfg.transportKind with
  | .pulse => buildPulse p c
  | .byte => buildByte c

/-- The symbols whose entry may not be NULL on a pulse-train channel (R103). -/
def mustNotBeNull : Sym → Bool
  | .zeroBit | .oneBit | .interframeGap => true
  | .startBit | .stopBit => false

/-- TABLE_BUILD ch (R105). -/
def execTableBuild (ch : ChanId) (s : State) : Result :=
  withChannel ch s fun c =>
    if c.state ≠ .idle then .next (s.rejectBusy ch)
    else
      match buildTable s.params c with
      | .error reason => .next (s.respond .tableErr reason)
      | .ok t => .next ((s.setChan ch { c with table := t, tset := tsetFull, built := true }).respond .ok 0)

/-- SET_SYMBOL ch, SYM, word (R106). -/
def execSetSymbol (ch : ChanId) (sym : Sym) (w : Word) (s : State) : Result :=
  withChannel ch s fun c =>
    if c.state ≠ .idle then .next (s.rejectBusy ch)
    else if c.cfg.transportKind = .pulse ∧ mustNotBeNull sym ∧ isNull w then .next (s.respond .rejectRange 0)
    else .next ((s.setChan ch { c with table := tableSet c.table sym w, tset := tsetMark c.tset sym }).respond .ok 0)

/-- LOOKUP ch, SYM (R107). -/
def execLookup (ch : ChanId) (sym : Sym) (s : State) : Result :=
  withChannel ch s fun c =>
    if c.built then .next (s.respond .ok (tableGet c.table sym)) else .next (s.respond .notReady 0)

end Sys2Proof.Machine
end

