-- ==== Sys2Proof/Machine/Transport.lean ====
section
/-! DEFINITION. Transport control and the frame state machine (42_transport_control.md): BEGIN, RENDER, STOP, PAUSE,
RESUME, SET_MIN_FRAME and SET_WIDTH. -/
namespace Sys2Proof.Machine

open Sys2Proof

/-- Whether a channel other than `ch` holds the peripheral or the pin that `ch` is configured for (R42, R115). -/
def claimedByOther (s : State) (ch : ChanId) (c : Chan) : Bool :=
  (List.range s.nCh).any fun n =>
    n != ch.toNat &&
    (match s.chans[n]? with
     | some o => o.bound && (o.cfg.periphId == c.cfg.periphId || o.cfg.pin == c.cfg.pin)
     | none => false)

/-- The claim, kind and baud checks of BEGIN on an unbound channel, in their order: the value of HW_UNAVAILABLE, or the
channel bound (R115). -/
def bindChannel (s : State) (ch : ChanId) (c : Chan) : Except Word Chan :=
  if claimedByOther s ch c then .error 1
  else if s.params.periphKind[c.cfg.periphId.toNat]? ≠ some c.cfg.transportKind then .error 2
  else
    match c.cfg.transportKind with
    | .byte =>
      if c.cfg.lineBits = 0 ∨ c.cfg.dataRate = 0 then .error 3
      else if s.params.baudMax < baudProduct c.cfg then .error 3
      else
        let baud := BitVec.ofNat 32 (baudProduct c.cfg)
        .ok { emitUart { c with baud := baud } (.bind baud c.cfg.wordLen c.cfg.stopBits c.cfg.invert) with bound := true }
    | .pulse =>
      .ok { emitPt { c with line := c.cfg.idleLevel } (.bind c.cfg.idleLevel) with bound := true }

/-- BEGIN ch (R115): a bound channel is unbound first, and stays so if the claim fails (log 12). -/
def execBegin (ch : ChanId) (s : State) : Result :=
  withChannel ch s fun c =>
    if c.state ≠ .idle then .next (s.rejectBusy ch)
    else
      let c := if c.bound then unbind c else c
      match bindChannel s ch c with
      | .error v => .next ((s.setChan ch c).respond .hwUnavailable v)
      | .ok c' => .next ((s.setChan ch c').respond .ok 0)

/-- What every accepted frame start does to the pacer and the statistics (R116, R171). -/
def countStart (now : Word) (c : Chan) : Chan :=
  { pacerRecord now c with framesStarted := c.framesStarted + 1 }

/-- RENDER of a pulse-train channel that is ready, IDLE and permitted (R116). -/
def renderPulse (s : State) (ch : ChanId) (c : Chan) : Result :=
  if s.params.ptDepth < pulseItemCount c then .next (s.raise (.oversize ch) .oversize)
  else
    match pulseSequence s.params ch (pumpStart c) with
    | .error f => .fault f
    | .ok (seq, c') =>
      let c' := countStart s.timeUs c'
      if pulseItemCount c = 0 then
        .next ((s.setChan ch { c' with framesDone := c'.framesDone + 1 }).respond .ok 1)
      else
        .next ((s.setChan ch { c' with ptq := seq, state := .armed, curActive := true }).respond .ok 1)

/-- RENDER of a byte-serial channel that is ready, IDLE and permitted (R116). -/
def renderByte (s : State) (ch : ChanId) (c : Chan) : Result :=
  let c' := countStart s.timeUs (pumpStart c)
  .next ((s.setChan ch { c' with state := .armed, curActive := true, intEn := true }).respond .ok 1)

/-- RENDER ch (R116): readiness, then busy, then pacer, then size. -/
def execRender (ch : ChanId) (s : State) : Result :=
  withChannel ch s fun c =>
    if c.bound = false ∨ c.built = false then .next (s.respond .notReady 0)
    else if c.state ≠ .idle then .next (s.respond .ok 0)
    else if canStart c s.timeUs = false then .next (s.respond .ok 0)
    else
      match c.cfg.transportKind with
      | .pulse => renderPulse s ch c
      | .byte => renderByte s ch c

/-- The channel forced to IDLE (R117). -/
def forceIdle (c : Chan) : Chan :=
  let c' := { c with intEn := false, fifo := [], ptq := [], state := .idle, curActive := false }
  if c.bound = true ∧ c.cfg.transportKind = .pulse then { c' with line := c.cfg.idleLevel } else c'

/-- STOP ch (R117). -/
def execStop (ch : ChanId) (s : State) : Result :=
  withChannel ch s fun c => .next ((s.setChan ch (forceIdle c)).respond .ok 0)

/-- PAUSE ch (R118): only a byte-serial channel that is ARMED or STREAMING pauses. -/
def execPause (ch : ChanId) (s : State) : Result :=
  withChannel ch s fun c =>
    if c.cfg.transportKind = .byte ∧ (c.state = .armed ∨ c.state = .streaming) then
      .next ((s.setChan ch { c with intEn := false, state := .paused }).respond .ok 0)
    else .next (s.respond .ok 0)

/-- RESUME ch (R119): only a PAUSED channel resumes. -/
def execResume (ch : ChanId) (s : State) : Result :=
  withChannel ch s fun c =>
    if c.state = .paused then .next ((s.setChan ch { c with intEn := true, state := .streaming }).respond .ok 0)
    else .next (s.respond .ok 0)

/-- SET_MIN_FRAME ch, us (R120): the threshold, and on a built pulse-train table the regenerated gap. -/
def execSetMinFrame (ch : ChanId) (us : Word) (s : State) : Result :=
  withChannel ch s fun c =>
    if c.state ≠ .idle then .next (s.rejectBusy ch)
    else if c.cfg.transportKind = .pulse ∧ c.built = true then
      if gapFits (gapFor s.params c.cfg us) then
        .next ((s.setChan ch
          { c with table := tableSet c.table .interframeGap (gapEntry c.cfg (gapFor s.params c.cfg us)),
                   minFrameUs := us }).respond .ok 0)
      else .next (s.respond .rejectRange 0)
    else .next ((s.setChan ch { c with minFrameUs := us }).respond .ok 0)

/-- SET_WIDTH ch, w (R121). -/
def execSetWidth (ch : ChanId) (w : Word) (s : State) : Result :=
  withChannel ch s fun c =>
    if c.state ≠ .idle then .next (s.rejectBusy ch)
    else if between 1 8 w then .next ((s.setChan ch { c with width := w.setWidth 4 }).respond .ok 0)
    else .next (s.respond .rejectRange 0)

end Sys2Proof.Machine
end

