-- ==== Sys2Proof/Machine/Dispatch.lean ====
section
/-! DEFINITION. The dispatch of a command to its meaning: one arm per constructor of `Instr`. -/
namespace Sys2Proof.Machine

open Sys2Proof

def exec (i : Instr) (s : State) : Host.Outcome State Fault Refusal :=
  match i with
  | .nop => Sys2Proof.Machine.execNop s
  | .cfgWrite ch field value => Sys2Proof.Machine.execCfgWrite ch field value s
  | .cfgRead ch field => Sys2Proof.Machine.execCfgRead ch field s
  | .bufWrite ch addr data => Sys2Proof.Machine.execBufWrite ch addr data s
  | .bufRead ch addr => Sys2Proof.Machine.execBufRead ch addr s
  | .tableBuild ch => Sys2Proof.Machine.execTableBuild ch s
  | .setSymbol ch sym word => Sys2Proof.Machine.execSetSymbol ch sym word s
  | .lookup ch sym => Sys2Proof.Machine.execLookup ch sym s
  | .beginCh ch => Sys2Proof.Machine.execBegin ch s
  | .render ch => Sys2Proof.Machine.execRender ch s
  | .stop ch => Sys2Proof.Machine.execStop ch s
  | .pause ch => Sys2Proof.Machine.execPause ch s
  | .resume ch => Sys2Proof.Machine.execResume ch s
  | .setMinFrame ch us => Sys2Proof.Machine.execSetMinFrame ch us s
  | .setWidth ch w => Sys2Proof.Machine.execSetWidth ch w s
  | .isrFill ch => Sys2Proof.Machine.execIsrFill ch s
  | .pumpStart ch => Sys2Proof.Machine.execPumpStart ch s
  | .pumpMore ch => Sys2Proof.Machine.execPumpMore ch s
  | .pumpNext ch => Sys2Proof.Machine.execPumpNext ch s
  | .pacerQuery ch => Sys2Proof.Machine.execPacerQuery ch s
  | .pacerRecord ch => Sys2Proof.Machine.execPacerRecord ch s

end Sys2Proof.Machine
end

