-- ==== Sys2Proof/Machine/Agents.lean ====
section
/-! DEFINITION. The agents (R5, R6): which are enabled, which moves next, and what each one's step does. -/
namespace Sys2Proof.Machine

open Sys2Proof

/-! ## The host's commands -/

/-- The next command of the host, and the state with it taken off the stream; none where the host has stopped. Past the
listed commands the stream goes on by the host's plan: as often as the host likes, for ever too (R21, R219; log 6). -/
def State.takeCommand (s : State) : Option ((Word × Word) × State) :=
  match s.commands, s.onward with
  | w :: rest, _ => some (w, { s with commands := rest })
  | [], .repeats (w :: rest) => some (w, { s with commands := rest })
  | [], .draws k => some (Config.hostCommand k, { s with onward := .draws (k + 1) })
  | [], .repeats [] => none
  | [], .stops => none

/-- The stream at a free move: a host with a command to issue may stop there, and its stream ends; one that repeats its
commands never stops (R7, R217, R219; log 6). -/
def State.hostMayStop (s : State) : State :=
  match s.onward with
  | .repeats _ => s
  | .stops | .draws _ =>
    if s.takeCommand.isSome && !Config.hostGoesOn s.turn then { s with commands := [], onward := .stops } else s

/-! ## Which agents are enabled -/

/-- Whether an agent has a step (R6): the host while it has a command to issue, ISR while `IRQ(ch)` (R155), PT while
`PTQ` holds an item (R138), UART while `FIFO` holds a byte (R156), CLOCK always (R181). -/
def enabled (s : State) : Agent → Bool
  | .host => s.takeCommand.isSome
  | .isr ch => decide (ch.toNat < s.nCh) && irqPending (s.chan ch)
  | .pt ch => decide (ch.toNat < s.nCh) && !(s.chan ch).ptq.isEmpty
  | .uart ch => decide (ch.toNat < s.nCh) && !(s.chan ch).fifo.isEmpty
  | .clock => true

/-- The agents of channel number `n`. -/
def channelAgents (n : Nat) : List Agent :=
  let ch : ChanId := BitVec.ofNat 4 n
  [.isr ch, .pt ch, .uart ch]

/-- The agents other than CLOCK of a machine of `nCh` channels (R5). -/
def otherAgents (nCh : Nat) : List Agent := .host :: (List.range nCh).flatMap channelAgents

/-- Every agent of a machine of `nCh` channels, in the order of `agentNumber` (R5). -/
def allAgents (nCh : Nat) : List Agent := .clock :: otherAgents nCh

/-- The number of an agent: its place in `allAgents`. -/
def agentNumber : Agent → Nat
  | .clock => 0
  | .host => 1
  | .isr ch => 3 * ch.toNat + 2
  | .pt ch => 3 * ch.toNat + 3
  | .uart ch => 3 * ch.toNat + 4

/-! ## Which agent moves next

The schedule says it while it names an enabled agent. Where it does not, the move is free: each agent has a delay drawn
freely when it last moved or was last not enabled, and the enabled agent that falls due first moves. An agent that stays
enabled falls due at a fixed free move and every later draw falls later, so it moves: every endless run is weakly fair,
and the draws allow every weakly fair run (R6, R7; log 5, log 15). The host competes like any agent while it has a command
to issue, and it may stop issuing at any free move (`State.hostMayStop`). -/

/-- The free move at which an agent's present delay was drawn. -/
def State.drawnAt (s : State) (a : Agent) : Nat := s.drawn.getD (agentNumber a) 0

/-- The free move at which an agent falls due. -/
def State.dueAt (s : State) (a : Agent) : Nat := s.drawnAt a + Config.agentDelay (agentNumber a) (s.drawnAt a)

/-- The agent that makes a free move: of the enabled ones, the one that falls due first; CLOCK is enabled always. -/
def freeMove (s : State) : Agent :=
  ((otherAgents s.nCh).filter (enabled s)).foldl (fun best a => if s.dueAt a < s.dueAt best then a else best) .clock

/-- The state after a free move of an agent was chosen: a new draw for it and for every agent that is not enabled. -/
def State.drawAfter (s : State) (mover : Agent) : State :=
  { s with schedule := []
           turn := s.turn + 1
           drawn := (allAgents s.nCh).map fun a =>
             if a = mover ∨ enabled s a = false then s.turn + 1 else s.drawnAt a }

/-- The agent that moves next, and the state with the schedule moved on: the first enabled agent the schedule names,
else the agent of the free move, before which the host may stop (R6, R7; log 5, log 6, log 15). -/
def nextMove (s : State) : Agent × State :=
  match s.schedule.dropWhile (fun a => !enabled s a) with
  | a :: rest => (a, { s with schedule := rest })
  | [] => (freeMove s.hostMayStop, s.hostMayStop.drawAfter (freeMove s.hostMayStop))

/-! ## The step of each agent -/

/-- The observation of a host command with the response it gave (R18). -/
def recordHost (w0 w1 : Word) (s : State) : State :=
  match s.response with
  | some r => { s with hostTrace := s.hostTrace ++ [⟨w0, w1, r⟩] }
  | none => s

/-- A function of the next state, on an outcome. -/
def mapNext (f : State → State) : Result → Result
  | .next s => .next (f s)
  | .fault r => .fault r
  | .refused r => .refused r

/-- What a decoded pair of words does at the command port (R84). -/
def runDecoded (d : Except DecodeError Instr) (s : State) : Result :=
  match d with
  | .ok i => exec i s
  | .error _ => .next s.illegal

/-- The HOST step: the next command of the stream is decoded and executed in the host context, and its response
recorded (R16, R84). -/
def hostStep (s : State) : Result :=
  match s.takeCommand with
  | none => .next s
  | some ((w0, w1), s') => mapNext (recordHost w0 w1) (runDecoded (decode s.nCh w0 w1) { s' with context := .host })

/-- The ISR step: the interrupt is taken, the refill runs, the interrupt returns (R151, R189, R190). -/
def isrStep (ch : ChanId) (s : State) : Result :=
  mapNext State.leaveInterrupt (exec (.isrFill ch) s.enterInterrupt)

/-- The step of an agent (R6). -/
def agentStep (a : Agent) (s : State) : Result :=
  match a with
  | .host => hostStep s
  | .isr ch => isrStep ch s
  | .pt ch => .next (s.setChan ch (ptEmit (s.chan ch)))
  | .uart ch => .next (s.setChan ch (uartDrain (s.chan ch)))
  | .clock => .next (clockTick s)

/-- One machine step: the agent that moves next takes its step (R6). -/
def machineStep (s : State) : Result :=
  let (a, s') := nextMove s
  agentStep a s'

/-- The state with a command put first in the host's stream and the host's move put first in the schedule. -/
def placeCommand (s : State) (w0 w1 : Word) : State :=
  { s with commands := (w0, w1) :: s.commands, schedule := .host :: s.schedule }

end Sys2Proof.Machine
end

