-- ==== Sys2Proof/Machine/Step.lean ====
section
/-! DEFINITION. The machine's step (R6), and the placing of a command where the next step takes it. -/
namespace Sys2Proof.Machine

open Sys2Proof

/-- One step of the machine (R6): three outcomes, `next`, `fault` and `refused`. -/
def step (s : State) : Host.Outcome State Fault Refusal := machineStep s

/-- The state in which the very next step runs the command given as one number: the command is the next one the host
issues, and the host moves next (log 6). -/
def State.withFetchWord (s : State) (nbits w : Nat) : State :=
  placeCommand s (commandOfBits nbits w).1 (commandOfBits nbits w).2

end Sys2Proof.Machine
end

