-- ==== Sys2Proof/Machine/Pseudo.lean ====
section
/-! DEFINITION. The assembler's operand macros (R88), and the pseudo-instructions and their expansions (R87). Both are
refused, `none`, where the rule has the assembler refuse the line or gives no expansion. A pseudo-instruction is the list
of its commands, which the host issues one after another; it is not atomic. -/
namespace Sys2Proof.Machine

open Sys2Proof

/-! ## Operand macros (R88) -/

/-- `DESC(dh, lh, dl, ll)`: refused unless both durations are at most 32767 and both levels 0 or 1. -/
def asmDesc (dh lh dl ll : Nat) : Option Word :=
  if dh ≤ durMax ∧ dl ≤ durMax ∧ lh ≤ 1 ∧ ll ≤ 1 then some (desc dh (lh == 1) dl (ll == 1)) else none

/-- `PAT(b0, …)` of one to four bytes, those left out being 0: refused unless each byte is at most 255 (R77). -/
def asmPat (bytes : List Nat) : Option Word :=
  let byteAt (k : Nat) : Byte := BitVec.ofNat 8 (bytes.getD k 0)
  if 1 ≤ bytes.length ∧ bytes.length ≤ 4 ∧ bytes.all (fun b => decide (b ≤ 255)) then
    some (pat (byteAt 0) (byteAt 1) (byteAt 2) (byteAt 3))
  else none

/-- `BIASW(c0, …, c8)`: refused unless there are nine biases, each −1, 0 or +1 (R79). -/
def asmBiasw (biases : List Int) : Option Word :=
  if biases.length = 9 then (biases.mapM codeOfBias).map wordOfCodes else none

/-! ## Pseudo-instructions (R87) -/

/-- `SET_CONFIG ch, F1=v1, …, Fn=vn`. -/
def pseudoSetConfig (ch : ChanId) (fields : List (Imm16 × Word)) : List Instr :=
  fields.map fun fv => .cfgWrite ch fv.1 fv.2

/-- `GET_STATUS ch, F1, …, Fn`. -/
def pseudoGetStatus (ch : ChanId) (fields : List Imm16) : List Instr := fields.map fun f => .cfgRead ch f

/-- `SET_GAP ch, ticks, idle`: the entry is `DESC(0, idle, ticks, idle)`, refused as that macro is (R88). -/
def pseudoSetGap (ch : ChanId) (ticks idle : Nat) : Option (List Instr) :=
  (asmDesc 0 idle ticks idle).map fun w => [.setSymbol ch .interframeGap w]

/-- `SET_PATTERNS ch, zero, one`. -/
def pseudoSetPatterns (ch : ChanId) (zero one : Word) : List Instr :=
  [.setSymbol ch .zeroBit zero, .setSymbol ch .oneBit one]

/-- `BUF_FILL ch, a, b0, …, bk`. DESIGN CHOICE (log 23): refused where `a+k` passes 0xFFFF, the last address that ADDR
can name; R87 gives no expansion there, for its `a+k` is a sum of unbounded integers (R13). -/
def pseudoBufFill (ch : ChanId) (a : Imm16) (bytes : List Byte) : Option (List Instr) :=
  if a.toNat + bytes.length ≤ 2 ^ 16 then
    some (bytes.zipIdx.map fun bi => .bufWrite ch (BitVec.ofNat 16 (a.toNat + bi.2)) bi.1)
  else none

/-- The words of a program, as the host puts them into its command stream. -/
def programWords (is : List Instr) : List (Word × Word) := is.map encode

end Sys2Proof.Machine
end

