-- ==== Sys2Proof/Safety.lean ====
section
/-! DEFINITION. What claims about the block are made of: the observation of a run (R18), the invariants of every
reachable state (R45), what a step leaves alone, the frame image and its translations in closed form (R135, R151,
R165), the decoding of both outputs (R143, R161), quiescence (R217) and weak fairness (R7). -/
namespace Sys2Proof.Machine

open Sys2Proof

/-! ## Observation (R18) -/

/-- The state of the block itself: the elements of 10_state.md and 20_memory.md and nothing else (R48), with the
parameters of R10. -/
structure BlockState where
  params : Params
  chans : List Chan
  timeUs : Word
  gerr : BitVec 2
  deriving DecidableEq, Repr

/-- The block's part of a machine state. -/
def State.block (s : State) : BlockState where
  params := s.params
  chans := s.chans
  timeUs := s.timeUs
  gerr := s.gerr

/-- What a run shows: the commands with their responses, and each channel's two traces, with the final state of the
block. -/
structure Observation where
  host : List HostEvent
  outputs : List (List PtEvent × List UartEvent)
  final : BlockState
  deriving DecidableEq, Repr

/-- The observation of a run that ends in a state. DESIGN CHOICE (log 24): the final state of R18 is taken to be the
block's (R48), without the model's own fields: the schedule's, the host's stream, the context in force and the response
port, whose last value stands in the pairs. -/
def observe (s : State) : Observation where
  host := s.hostTrace
  outputs := s.chans.map fun c => (c.ptTrace, c.uartTrace)
  final := s.block

/-! ## What a command leaves alone -/

/-- Everything outside channel `ch` and the response port is as before: the frame of a command that acts on one
channel. -/
structure OnlyChannel (ch : ChanId) (s t : State) : Prop where
  params : t.params = s.params
  nCh : t.nCh = s.nCh
  others : ∀ o : ChanId, o ≠ ch → t.chan o = s.chan o
  timeUs : t.timeUs = s.timeUs
  gerr : t.gerr = s.gerr
  context : t.context = s.context
  hostTrace : t.hostTrace = s.hostTrace
  commands : t.commands = s.commands
  onward : t.onward = s.onward
  schedule : t.schedule = s.schedule
  turn : t.turn = s.turn
  drawn : t.drawn = s.drawn

/-- Every byte of every intensity buffer reads as before. -/
def SameMemory (s t : State) : Prop := ∀ (o : ChanId) (a : Nat), t.cell o a = s.cell o a

/-! ## The frame image in closed form (R165) -/

/-- The `(byte, multiplier)` pair of a position, for a cell the RAM has. -/
def slotValue (ch : ChanId) (c : Chan) : Slot → Byte × Multiplier
  | .framing b => (b, unity)
  | .cell i => (cellByte ch c i, c.cfg.brightness)

/-- `frame(ch)` (R165). -/
def frameImage (ch : ChanId) (c : Chan) : List (Byte × Multiplier) := (frameSlots c.cfg).map (slotValue ch c)

/-- The scaled bytes of the frame, in order (R134, R168). -/
def scaledFrame (p : Params) (ch : ChanId) (c : Chan) : List Byte :=
  (frameImage ch c).map fun vm => scale p.scale vm.1 vm.2

/-- The items of a whole pulse-train frame (R135). -/
def frameItems (p : Params) (ch : ChanId) (c : Chan) : List Word :=
  markerItems c.table.startBit ++ (scaledFrame p ch c).flatMap (byteItems c.table c.width.toNat) ++
  markerItems c.table.stopBit ++ markerItems c.table.interframeGap

/-- The bits of a list of bytes at width `w`, most significant first within each byte (R132). -/
def frameBits (w : Nat) (bytes : List Byte) : List Bool := bytes.flatMap (bitsOf w)

/-- The trace events of one item (R141). -/
def itemEvents (d : Word) : List PtEvent :=
  (if 0 < descDh d then [.seg (descLh d) (descDh d)] else []) ++
  (if 0 < descDl d then [.seg (descLl d) (descDl d)] else [])

/-! ## Decoding the outputs (R143, R161) -/

/-- Drop the last element of a list where a marker is not NULL. -/
def dropMarkerLast (w : Word) (l : List Word) : List Word := if isNull w then l else l.dropLast

/-- Drop the first element of a list where a marker is not NULL. -/
def dropMarkerFirst (w : Word) (l : List Word) : List Word := if isNull w then l else l.tail

/-- `decode_items`, before its grouping: the bits that a frame's items spell by the table (R143). -/
def decodeItems (t : SymbolTable) (items : List Word) : List Bool :=
  (dropMarkerLast t.stopBit (dropMarkerLast t.interframeGap (dropMarkerFirst t.startBit items))).map
    fun d => decide (d = t.oneBit)

/-- A list cut into pieces of `k`, for at most `fuel` pieces. -/
def piecesOf {α : Type} (k : Nat) : Nat → List α → List (List α)
  | 0, _ => []
  | fuel + 1, l => if l.isEmpty then [] else l.take k :: piecesOf k fuel (l.drop k)

/-- The byte whose bits, most significant first, a list spells. -/
def byteOfBits (bits : List Bool) : Byte := BitVec.ofNat 8 (bits.foldl (fun n b => 2 * n + b.toNat) 0)

/-- The bits that a byte stream spells by the table, `bpb` bytes a bit (R161). -/
def demuxBytes (t : SymbolTable) (bpb : Nat) (bytes : List Byte) : List Bool :=
  (piecesOf bpb bytes.length bytes).map fun g => decide (g = bytesOf t.oneBit bpb)

/-! ## Invariants (R45) -/

/-- What holds of every channel of a reachable state: clauses 1 to 8 of R45, the second half of clause 9, and what they
rest on. -/
structure ChanOk (p : Params) (c : Chan) : Prop where
  /-- R45 clause 1. -/
  active : c.curActive = true ↔ c.state ≠ .idle
  /-- R45 clause 2. -/
  intEn : c.intEn = true → c.cfg.transportKind = .byte ∧ (c.state = .armed ∨ c.state = .streaming)
  /-- A byte-serial channel that is ARMED or STREAMING has its interrupt enabled (R116, R119). -/
  refilled : c.cfg.transportKind = .byte → (c.state = .armed ∨ c.state = .streaming) → c.intEn = true
  /-- R45 clause 3. -/
  inFrame : c.state ≠ .idle → c.bound = true ∧ c.built = true
  /-- R45 clause 4. -/
  paused : c.state = .paused → c.cfg.transportKind = .byte
  /-- R45 clause 5. -/
  pulseQueue : c.cfg.transportKind = .pulse → (c.ptq ≠ [] ↔ (c.state = .armed ∨ c.state = .streaming))
  /-- R45 clause 6. -/
  unboundEmpty : c.bound = false → c.fifo = [] ∧ c.ptq = []
  /-- R45 clause 7. -/
  fifoFits : c.fifo.length ≤ p.fifoDepth
  /-- R45 clause 7. -/
  ptqFits : c.ptq.length ≤ p.ptDepth
  /-- R45 clause 8. -/
  curBits : c.curBits = 0
  /-- R45 clause 9, the kind of a bound peripheral. -/
  kindMatches : c.bound = true → p.periphKind[c.cfg.periphId.toNat]? = some c.cfg.transportKind
  /-- A byte-serial channel queues no item (R138). -/
  byteNoItems : c.cfg.transportKind = .byte → c.ptq = []
  /-- A pulse-train channel queues no byte (R130). -/
  pulseNoBytes : c.cfg.transportKind = .pulse → c.fifo = []
  /-- A built table has every symbol set (R29). -/
  builtSet : c.built = true → c.tset = tsetFull
  /-- The required symbols of a built pulse-train table are not NULL (R103). -/
  builtNotNull : c.built = true → c.cfg.transportKind = .pulse →
    isNull c.table.zeroBit = false ∧ isNull c.table.oneBit = false ∧ isNull c.table.interframeGap = false
  /-- Every field holds a legal value or its reset value (R22). -/
  fieldsLegal : ∀ f : CfgField, legalValue p f (cfgGet c.cfg f) = true ∨ cfgGet c.cfg f = cfgGet Cfg.reset f
  /-- WIDTH is 1 to 8 (R28). -/
  width : 1 ≤ c.width.toNat ∧ c.width.toNat ≤ 8
  /-- In a frame the cursor is within the frame (R177). -/
  cursor : c.state ≠ .idle → c.curOffset.toNat ≤ frameLen c.cfg
  /-- No step reads past the end of a frame (R169). -/
  noOverread : c.err.getLsbD 1 = false
  /-- The buffer memory is in canonical form (log 4). -/
  memory : memWf c.ibuf = true

/-- What holds of every reachable state (R45): the parameters meet R10, there are 1 to 16 channels, the host context is
in force between steps, every channel is as `ChanOk` says, and no two bound channels share a peripheral or a pin. -/
structure Inv (s : State) : Prop where
  params : s.params.wf
  channels : 1 ≤ s.nCh ∧ s.nCh ≤ 16
  context : s.context = .host
  each : ∀ ch : ChanId, ch.toNat < s.nCh → ChanOk s.params (s.chan ch)
  /-- R45 clause 9, R42. -/
  claims : ∀ a b : ChanId, a.toNat < s.nCh → b.toNat < s.nCh → a ≠ b →
    (s.chan a).bound = true → (s.chan b).bound = true →
    (s.chan a).cfg.periphId ≠ (s.chan b).cfg.periphId ∧ (s.chan a).cfg.pin ≠ (s.chan b).cfg.pin

/-! ## Runs -/

/-- A quiescent state: the host has stopped issuing commands and no agent but CLOCK is enabled (R217). A host that stops
with commands left gives them up at the free move at which it stops (log 6), so a stopped host has none to issue. -/
structure Quiescent (s : State) : Prop where
  hostStopped : s.takeCommand = none
  drained : ∀ ch : ChanId, ch.toNat < s.nCh →
    (s.chan ch).ptq = [] ∧ (s.chan ch).fifo = [] ∧ irqPending (s.chan ch) = false

/-- `n` steps of the machine. -/
def stepN : Nat → State → Result
  | 0, s => .next s
  | n + 1, s =>
    match step s with
    | .next t => stepN n t
    | .fault f => .fault f
    | .refused r => .refused r

/-- An endless run of the machine. -/
def IsRun (run : Nat → State) : Prop := ∀ n, step (run n) = .next (run (n + 1))

/-- Weak fairness of every agent but the host: one that stays enabled moves at some time (R7). Every endless run has it,
by the way `freeMove` chooses (log 15). -/
def WeaklyFair (run : Nat → State) : Prop :=
  ∀ (a : Agent), a ≠ .host → ∀ n, (∀ m, n ≤ m → enabled (run m) a = true) → ∃ m, n ≤ m ∧ (nextMove (run m)).1 = a

end Sys2Proof.Machine
end

