-- ==== Sys2Proof/Certificates/Slice0/Obligations.lean ====
section
/-! DEFINITION. The statements for the provers. A command's result statement concludes that `exec` answers a next state
and says what it holds: the response, the whole of the command's channel, and by `OnlyChannel` and `SameMemory` that
nothing else moved and that every buffer byte outside those written reads as before. Where nothing but the response moves, the next
state is written out as the old one with the response put in. -/

open Sys2Proof Sys2Proof.Machine

/-! ## Encoding -/

/-- Decoding the encoding of a well-formed command gives the command back (R71, R72, R80, R86). -/
def Obligations.DecodeOfEncodeIsIdentity : Prop :=
  ∀ (nCh : Nat) (i : Instr), i.wellFormed nCh = true → decode nCh (encode i).1 (encode i).2 = .ok i

/-- A decoded command is well formed, its header is the one an assembler writes for it unless it is a NOP, and an
operand word that a format reads is read whole, or its low byte for BUF_WRITE (R72, R74, R75). -/
def Obligations.DecodedWordsAreTheAssemblersWords : Prop :=
  ∀ (nCh : Nat) (w0 w1 : Word) (i : Instr), decode nCh w0 w1 = .ok i →
    i.wellFormed nCh = true ∧
    (i ≠ .nop → (encode i).1 = w0) ∧
    (∀ ch f v, i = .cfgWrite ch f v → v = w1) ∧
    (∀ ch y v, i = .setSymbol ch y v → v = w1) ∧
    (∀ ch v, i = .setMinFrame ch v → v = w1) ∧
    (∀ ch v, i = .setWidth ch v → v = w1) ∧
    (∀ ch a b, i = .bufWrite ch a b → b.toNat = w1.toNat % 256)

/-- The words that are no command are exactly those with a reserved opcode, a must-be-zero bit set, a symbol above 4 or
a channel that does not exist (R81, R82); bits that a format ignores play no part. -/
def Obligations.ExactlyTheIllegalWordsDoNotDecode : Prop :=
  ∀ (nCh : Nat) (w0 w1 : Word),
    let opc := (opcField w0).toNat
    (∃ e, decode nCh w0 w1 = .error e) ↔
      0x14 < opc ∨
      (opc ≠ 0 ∧
        (nCh ≤ (chField w0).toNat ∨
          (1 ≤ opc ∧ opc ≤ 4 ∧ symField w0 ≠ 0) ∨
          ((opc = 6 ∨ opc = 7) ∧ (immField w0 ≠ 0 ∨ 4 < (symField w0).toNat)) ∨
          ((opc = 5 ∨ 8 ≤ opc) ∧ (symField w0 ≠ 0 ∨ immField w0 ≠ 0))))

/-- Words that are no command answer ILLEGAL with value 0, set GERR.ILLEGAL and do nothing else to the block (R81, R84,
R186). The command leaves the stream, the host context is in force and the response joins the observation: the context
field (log 7), the stream and the placing of a command in it (log 6), the schedule that lets the host move next (log 5)
and the recorded observation (log 8) are the model's choice. -/
def Obligations.UndecodedWordsAnswerIllegal : Prop :=
  ∀ (s : State) (w0 w1 : Word) (e : DecodeError), decode s.nCh w0 w1 = .error e →
    step (placeCommand s w0 w1) =
      .next { s with context := .host, gerr := s.gerr ||| 1, response := some ⟨.illegal, 0⟩,
                     hostTrace := s.hostTrace ++ [⟨w0, w1, ⟨.illegal, 0⟩⟩] }

/-- The worked encodings of R89, every symbol id (R73), and a word of every other opcode (R80). -/
def Obligations.WorkedEncodingsDecode : Prop :=
  decode 2 0x01000010 0x000030D4 = .ok (.cfgWrite 0 0x10 12500) ∧
  decode 2 0x06110000 0x000000C0 = .ok (.setSymbol 1 .oneBit 0xC0) ∧
  decode 2 0x09000000 0x00000000 = .ok (.render 0) ∧
  decode 2 0x07020000 0xFFFFFFFF = .ok (.lookup 0 .interframeGap) ∧
  decode 2 0x03000003 0x000000B4 = .ok (.bufWrite 0 3 0xB4) ∧
  decode 2 0x09010000 0x00000000 = .error .mustBeZero ∧
  decode 2 0x0D100000 0x000061A8 = .ok (.setMinFrame 1 25000) ∧
  decode 2 0x00FFFFFF 0xFFFFFFFF = .ok .nop ∧
  (decode 1 0x06000000 7 = .ok (.setSymbol 0 .zeroBit 7) ∧ decode 1 0x06020000 7 = .ok (.setSymbol 0 .interframeGap 7) ∧
    decode 1 0x06030000 7 = .ok (.setSymbol 0 .startBit 7) ∧ decode 1 0x06040000 7 = .ok (.setSymbol 0 .stopBit 7)) ∧
  (decode 2 0x02100041 0 = .ok (.cfgRead 1 0x41) ∧ decode 2 0x04100003 0 = .ok (.bufRead 1 3) ∧
    decode 2 0x05100000 0 = .ok (.tableBuild 1) ∧ decode 2 0x08100000 0 = .ok (.beginCh 1) ∧
    decode 2 0x0A100000 0 = .ok (.stop 1) ∧ decode 2 0x0B100000 0 = .ok (.pause 1) ∧
    decode 2 0x0C100000 0 = .ok (.resume 1) ∧ decode 2 0x0E100000 4 = .ok (.setWidth 1 4) ∧
    decode 2 0x0F100000 0 = .ok (.isrFill 1) ∧ decode 2 0x10100000 0 = .ok (.pumpStart 1) ∧
    decode 2 0x11100000 0 = .ok (.pumpMore 1) ∧ decode 2 0x12100000 0 = .ok (.pumpNext 1) ∧
    decode 2 0x13100000 0 = .ok (.pacerQuery 1) ∧ decode 2 0x14100000 0 = .ok (.pacerRecord 1))

/-! ## Steps and agents -/

/-- The host's step decodes the next command of the stream and runs it in the host context, and the response it gives
joins the observation (R6, R16, R18, R84; the stream and the context in force are the model's fields, log 6 and
log 7). -/
def Obligations.StepRunsTheDecodedCommand : Prop :=
  ∀ (s s' u : State) (w0 w1 : Word) (i : Instr),
    nextMove s = (.host, s') → s'.takeCommand = some ((w0, w1), u) → decode s'.nCh w0 w1 = .ok i →
    i.wellFormed s'.nCh = true ∧
    (∀ t r, exec i { u with context := .host } = .next t → t.response = some r →
      step s = .next { t with hostTrace := t.hostTrace ++ [⟨w0, w1, r⟩] }) ∧
    (∀ f, exec i { u with context := .host } = .fault f → step s = .fault f)

/-- A host step takes one command off the stream and gives exactly one response, recorded with the command (R16), whose
status is one of ten with the 8-bit codes of R185. The stream is the listed commands and then what the host's plan says:
none, a program over and over, or commands of which nothing is known (the model's fields, log 6). -/
def Obligations.HostStepGivesExactlyOneResponse : Prop :=
  (statusCode .ok = 0x00 ∧ statusCode .rejectRange = 0x01 ∧ statusCode .rejectRo = 0x02 ∧
    statusCode .rejectBusy = 0x03 ∧ statusCode .hwUnavailable = 0x04 ∧ statusCode .notReady = 0x05 ∧
    statusCode .tableErr = 0x06 ∧ statusCode .oversize = 0x07 ∧ statusCode .context = 0x08 ∧
    statusCode .illegal = 0x09) ∧
  (∀ (s s' u t : State) (w0 w1 : Word),
    nextMove s = (.host, s') → s'.takeCommand = some ((w0, w1), u) → step s = .next t →
    (∃ r, t.response = some r ∧ t.hostTrace = s.hostTrace ++ [⟨w0, w1, r⟩]) ∧
    t.commands = u.commands ∧ t.onward = u.onward) ∧
  (∀ (s : State) (w : Word × Word) (rest : List (Word × Word)),
    s.commands = w :: rest ∨ (s.commands = [] ∧ s.onward = .repeats (w :: rest)) →
    s.takeCommand = some (w, { s with commands := rest })) ∧
  (∀ (s : State) (k : Nat), s.commands = [] → s.onward = .draws k →
    s.takeCommand = some (Config.hostCommand k, { s with onward := .draws (k + 1) })) ∧
  (∀ s : State, s.commands = [] → s.onward = .stops ∨ s.onward = .repeats [] → s.takeCommand = none)

/-- Whichever enabled agent the schedule names first takes the next step, so every finite order of enabled steps occurs
(R6); every endless run is weakly fair for every agent but the host (R7); and a host whose plan is to repeat its commands
issues commands for ever, as often as it likes (R219). The schedule, the draws that choose where it is silent and the
host's plan are the model's fields (log 5, log 6, log 15). -/
def Obligations.EnabledAgentsMoveFreelyAndFairly : Prop :=
  (∀ (s : State) (a : Agent), enabled s a = true → step { s with schedule := a :: s.schedule } = agentStep a s) ∧
  (∀ run : Nat → State, IsRun run → WeaklyFair run) ∧
  (∀ (run : Nat → State) (w : Word × Word) (rest : List (Word × Word)), IsRun run →
    (run 0).onward = .repeats (w :: rest) → ∀ n, ∃ m, n ≤ m ∧ (nextMove (run m)).1 = .host)

/-! ## NOP, configuration and buffer -/

/-- Every pair of words with opcode 0 is a NOP, and a NOP answers OK with value 0 and changes nothing else (R83,
R90). -/
def Obligations.NopWordsAnswerOkAndChangeNothing : Prop :=
  ∀ (s : State) (w0 w1 : Word), opcField w0 = 0 →
    decode s.nCh w0 w1 = .ok .nop ∧ exec .nop s = .next { s with response := some ⟨.ok, 0⟩ }

/-- CFG_WRITE, whole (R91, R92): a status field, an unknown field, a busy channel, an illegal value, and the accepted
write with its side effects, in the order of the rule. -/
def Obligations.CfgWriteFollowsItsChecksAndSideEffects : Prop :=
  ∀ (s : State) (ch : ChanId) (field : Imm16) (v : Word), ch.toNat < s.nCh → s.params.wf →
    let c := s.chan ch
    let id := field.toNat
    let bindField := id ≤ 0x04 ∨ (0x0C ≤ id ∧ id ≤ 0x0F)
    let tableInput := id = 0x00 ∨ id = 0x03 ∨ id = 0x04 ∨ (0x10 ≤ id ∧ id ≤ 0x1A)
    (((0x40 ≤ id ∧ id ≤ 0x53) ∨ (0x60 ≤ id ∧ id ≤ 0x65)) →
      exec (.cfgWrite ch field v) s = .next { s with response := some ⟨.rejectRo, 0⟩ }) ∧
    (0x20 < id → ¬((0x40 ≤ id ∧ id ≤ 0x53) ∨ (0x60 ≤ id ∧ id ≤ 0x65)) →
      exec (.cfgWrite ch field v) s = .next { s with response := some ⟨.rejectRange, 0⟩ }) ∧
    (id ≤ 0x20 → c.state ≠ .idle →
      ∃ t, exec (.cfgWrite ch field v) s = .next t ∧ t.response = some ⟨.rejectBusy, 0⟩ ∧
        t.chan ch = { c with err := c.err ||| 1 } ∧ OnlyChannel ch s t ∧ SameMemory s t) ∧
    (∀ f, fieldOfId field = .config f → c.state = .idle → legalValue s.params f v = false →
      exec (.cfgWrite ch field v) s = .next { s with response := some ⟨.rejectRange, 0⟩ }) ∧
    (∀ f, fieldOfId field = .config f → c.state = .idle → legalValue s.params f v = true →
      ∃ t cfg', exec (.cfgWrite ch field v) s = .next t ∧ t.response = some ⟨.ok, 0⟩ ∧
        cfgGet cfg' f = v ∧ (∀ g, g ≠ f → cfgGet cfg' g = cfgGet c.cfg g) ∧
        t.chan ch =
          { c with cfg := cfg',
                   built := c.built && decide (¬tableInput),
                   tset := if id = 0x00 then 0 else c.tset,
                   bound := c.bound && decide (¬bindField),
                   intEn := c.intEn && decide (¬(bindField ∧ c.bound = true)),
                   fifo := if bindField ∧ c.bound = true then [] else c.fifo,
                   ptq := if bindField ∧ c.bound = true then [] else c.ptq } ∧
        OnlyChannel ch s t ∧ SameMemory s t)

/-- On an idle channel CFG_WRITE accepts exactly the legal values of R22, and answers REJECT_RANGE with the field as it
was to every other; BIAS takes no code 0b10 and no bit of 31 .. 18 (R22, R79). -/
def Obligations.CfgWriteAcceptsExactlyTheLegalValues : Prop :=
  ∀ (s : State) (ch : ChanId) (field : Imm16) (v : Word), ch.toNat < s.nCh → (s.chan ch).state = .idle →
    let id := field.toNat
    let p := s.params
    let n := v.toNat
    let legal : Prop :=
      ((id = 0x00 ∨ id = 0x03 ∨ id = 0x04 ∨ id = 0x07 ∨ id = 0x0A) ∧ n ≤ 1) ∨
      (id = 0x01 ∧ n < p.periphKind.length) ∨ (id = 0x02 ∧ n < p.nPin) ∨ (id = 0x05 ∧ n ≤ p.bufMax) ∨
      (id = 0x06 ∧ n ≤ 255) ∨ (id = 0x08 ∧ n ≤ 256) ∨ (id = 0x09 ∧ n ≤ p.fifoDepth) ∨
      (id = 0x0B ∧ 1 ≤ n ∧ n ≤ 4) ∨ (id = 0x0C ∧ 1 ≤ n ∧ n ≤ 255) ∨ ((id = 0x0D ∨ id = 0x10) ∧ 1 ≤ n) ∨
      (id = 0x0E ∧ 5 ≤ n ∧ n ≤ 8) ∨ (id = 0x0F ∧ 1 ≤ n ∧ n ≤ 2) ∨ (0x11 ≤ id ∧ id ≤ 0x19) ∨
      (id = 0x1A ∧ n < 2 ^ 18 ∧ ∀ i, i < 9 → ¬(v.getLsbD (2 * i + 1) = true ∧ v.getLsbD (2 * i) = false)) ∨
      ((id = 0x1B ∨ id = 0x1D ∨ id = 0x1F) ∧ n ≤ 4) ∨ (id = 0x1C ∨ id = 0x1E ∨ id = 0x20)
    id ≤ 0x20 →
      (legal → ∃ t, exec (.cfgWrite ch field v) s = .next t ∧ t.response = some ⟨.ok, 0⟩) ∧
      (¬legal → exec (.cfgWrite ch field v) s = .next { s with response := some ⟨.rejectRange, 0⟩ })

/-- The field space (R53): ids 0x00 to 0x20 name a configuration field, 0x40 to 0x53 and 0x60 to 0x65 a status field,
each its own; reading or writing any other id is REJECT_RANGE. -/
def Obligations.FieldSpaceHoldsExactlyTheNamedIds : Prop :=
  ∀ (field : Imm16),
    let id := field.toNat
    (id ≤ 0x20 → ∃ f, fieldOfId field = .config f ∧ cfgFieldId f = id) ∧
    (((0x40 ≤ id ∧ id ≤ 0x53) ∨ (0x60 ≤ id ∧ id ≤ 0x65)) → ∃ g, fieldOfId field = .status g ∧ statusFieldId g = id) ∧
    (0x20 < id → ¬((0x40 ≤ id ∧ id ≤ 0x53) ∨ (0x60 ≤ id ∧ id ≤ 0x65)) →
      ∀ (s : State) (ch : ChanId) (v : Word), ch.toNat < s.nCh →
        exec (.cfgRead ch field) s = .next { s with response := some ⟨.rejectRange, 0⟩ } ∧
        exec (.cfgWrite ch field v) s = .next { s with response := some ⟨.rejectRange, 0⟩ })

/-- CFG_READ, whole (R93): each id 0x00 to 0x20 reads the configuration field that R22 gives it, zero-extended (what a
status id reads is StatusFieldsReadTheState), an unknown id answers REJECT_RANGE; in every frame state, and nothing but
the response changes; a global field reads the same through every channel. -/
def Obligations.CfgReadReturnsTheField : Prop :=
  ∀ (s : State) (ch : ChanId) (field : Imm16), ch.toNat < s.nCh →
    let f := (s.chan ch).cfg
    let reads (id : Imm16) (v : Nat) : Prop :=
      exec (.cfgRead ch id) s = .next { s with response := some ⟨.ok, BitVec.ofNat 32 v⟩ }
    (reads 0x00 (match f.transportKind with | .pulse => 0 | .byte => 1) ∧ reads 0x01 f.periphId.toNat ∧
     reads 0x02 f.pin.toNat ∧ reads 0x03 f.idleLevel.toNat ∧ reads 0x04 f.invert.toNat ∧ reads 0x05 f.bufLen.toNat ∧
     reads 0x06 f.groupSize.toNat ∧ reads 0x07 (match f.pumpKind with | .pixel => 0 | .serial => 1) ∧
     reads 0x08 f.brightness.toNat ∧ reads 0x09 f.fifoThresh.toNat ∧ reads 0x0A f.xlatEn.toNat ∧
     reads 0x0B f.bpb.toNat ∧ reads 0x0C f.lineBits.toNat ∧ reads 0x0D f.dataRate.toNat ∧ reads 0x0E f.wordLen.toNat ∧
     reads 0x0F f.stopBits.toNat ∧ reads 0x10 f.tickPs.toNat ∧ reads 0x11 f.t0hNs.toNat ∧ reads 0x12 f.t0lNs.toNat ∧
     reads 0x13 f.t1hNs.toNat ∧ reads 0x14 f.t1lNs.toNat ∧ reads 0x15 f.resetNs.toNat ∧ reads 0x16 f.starthNs.toNat ∧
     reads 0x17 f.startlNs.toNat ∧ reads 0x18 f.stophNs.toNat ∧ reads 0x19 f.stoplNs.toNat ∧ reads 0x1A f.bias.toNat ∧
     reads 0x1B f.preLen.toNat ∧ reads 0x1C f.preBytes.toNat ∧ reads 0x1D f.appLen.toNat ∧
     reads 0x1E f.appBytes.toNat ∧ reads 0x1F f.grpLen.toNat ∧ reads 0x20 f.grpBytes.toNat) ∧
    (∀ g, fieldOfId field = .config g →
      exec (.cfgRead ch field) s = .next { s with response := some ⟨.ok, cfgGet f g⟩ }) ∧
    (∀ g, fieldOfId field = .status g →
      exec (.cfgRead ch field) s = .next { s with response := some ⟨.ok, statusValue s (s.chan ch) g⟩ }) ∧
    (fieldOfId field = .unknown →
      exec (.cfgRead ch field) s = .next { s with response := some ⟨.rejectRange, 0⟩ }) ∧
    (∀ (o : ChanId) (g : StatusField), 0x60 ≤ statusFieldId g →
      statusValue s (s.chan o) g = statusValue s (s.chan ch) g)

/-- What the ids of the status fields read as (R44). -/
def Obligations.StatusFieldsReadTheState : Prop :=
  ∀ (s : State) (ch : ChanId), ch.toNat < s.nCh →
    let c := s.chan ch
    let reads (id : Imm16) (v : Nat) : Prop :=
      exec (.cfgRead ch id) s = .next { s with response := some ⟨.ok, BitVec.ofNat 32 v⟩ }
    reads 0x40 (match c.state with | .idle => 0 | .armed => 1 | .streaming => 2 | .paused => 3) ∧
    reads 0x41 c.curActive.toNat ∧ reads 0x42 c.curOffset.toNat ∧ reads 0x43 c.curBits.toNat ∧
    reads 0x44 c.err.toNat ∧ reads 0x45 c.minFrameUs.toNat ∧ reads 0x46 c.width.toNat ∧
    reads 0x47 c.lastStartUs.toNat ∧ reads 0x48 c.started.toNat ∧ reads 0x49 c.framesStarted.toNat ∧
    reads 0x4A c.framesDone.toNat ∧ reads 0x4B c.bound.toNat ∧ reads 0x4C c.baud.toNat ∧ reads 0x4D c.built.toNat ∧
    reads 0x4E c.tset.toNat ∧ reads 0x4F c.intEn.toNat ∧ reads 0x50 c.fifo.length ∧ reads 0x51 c.ptq.length ∧
    reads 0x52 (frameImage ch c).length ∧ reads 0x53 c.line.toNat ∧ reads 0x60 s.timeUs.toNat ∧
    reads 0x61 s.gerr.toNat ∧ reads 0x62 s.nCh ∧ reads 0x63 s.params.fifoDepth ∧ reads 0x64 s.params.ptDepth ∧
    reads 0x65 s.params.bufMax

/-- BUF_WRITE, whole (R94): an address at or past BUF_LEN, a busy channel, and the write, after which the cell written
reads as the byte and every other cell of every channel as before. (BUF_LEN ≤ BUF_MAX is part of `Inv`.) The last
conjunct, that the list of written cells keeps its canonical form, is the model's choice (log 4). -/
def Obligations.BufWriteStoresOneByte : Prop :=
  ∀ (s : State) (ch : ChanId) (a : Imm16) (b : Byte), ch.toNat < s.nCh →
    let c := s.chan ch
    (c.cfg.bufLen.toNat ≤ a.toNat →
      exec (.bufWrite ch a b) s = .next { s with response := some ⟨.rejectRange, 0⟩ }) ∧
    (a.toNat < c.cfg.bufLen.toNat → c.state ≠ .idle →
      ∃ t, exec (.bufWrite ch a b) s = .next t ∧ t.response = some ⟨.rejectBusy, 0⟩ ∧
        t.chan ch = { c with err := c.err ||| 1 } ∧ OnlyChannel ch s t ∧ SameMemory s t) ∧
    (a.toNat < c.cfg.bufLen.toNat → c.state = .idle → c.cfg.bufLen.toNat ≤ s.params.bufMax →
      ∃ t, exec (.bufWrite ch a b) s = .next t ∧ t.response = some ⟨.ok, 0⟩ ∧
        t.cell ch a.toNat = b ∧ (∀ (o : ChanId) (n : Nat), ¬(o = ch ∧ n = a.toNat) → t.cell o n = s.cell o n) ∧
        t.chan ch = { c with ibuf := (t.chan ch).ibuf } ∧ OnlyChannel ch s t ∧
        (memWf c.ibuf = true → memWf (t.chan ch).ibuf = true))

/-- BUF_READ, whole (R95), in every frame state; a cell that nothing has written reads as its draw (R43, log 4). -/
def Obligations.BufReadReturnsTheCell : Prop :=
  ∀ (s : State) (ch : ChanId) (a : Imm16), ch.toNat < s.nCh →
    (((s.chan ch).cfg.bufLen.toNat ≤ a.toNat) →
      exec (.bufRead ch a) s = .next { s with response := some ⟨.rejectRange, 0⟩ }) ∧
    (a.toNat < (s.chan ch).cfg.bufLen.toNat → (s.chan ch).cfg.bufLen.toNat ≤ s.params.bufMax →
      exec (.bufRead ch a) s = .next { s with response := some ⟨.ok, BitVec.ofNat 32 (s.cell ch a.toNat).toNat⟩ }) ∧
    (memFind (s.chan ch).ibuf a.toNat = none → s.cell ch a.toNat = Config.ibufInit ch.toNat a.toNat)

/-! ## The timing table -/

/-- TABLE_BUILD of a pulse-train channel whose constants, gap and required symbols are good computes the five entries
from the nanosecond constants, the tick length and the biases (R101, R102, R105), and the gap by GAP_TICKS, whose default
is the reset ticks (R104). -/
def Obligations.TableBuildComputesThePulseEntries : Prop :=
  (∀ m r t : Nat, gapTicks .standard m r t = r) ∧
  ∀ (s : State) (ch : ChanId), ch.toNat < s.nCh →
    let c := s.chan ch
    let f := c.cfg
    let bias (i : Nat) : Int := if f.bias.getLsbD (2 * i) then (if f.bias.getLsbD (2 * i + 1) then -1 else 1) else 0
    let q (ns : Word) (i : Nat) : Int := ((ns.toNat * 1000 / f.tickPs.toNat : Nat) : Int) + bias i
    let good (x : Int) : Prop := 0 ≤ x ∧ x ≤ 32767
    let g := gapTicks s.params.gap c.minFrameUs.toNat (q f.resetNs 4).toNat f.tickPs.toNat
    let entry (w : Word) (hi lo : Int) : Prop :=
      (descDh w : Int) = hi ∧ descLh w = !f.invert ∧ (descDl w : Int) = lo ∧ descLl w = f.invert
    c.state = .idle → f.transportKind = .pulse → f.tickPs ≠ 0 →
    good (q f.t0hNs 0) → good (q f.t0lNs 1) → good (q f.t1hNs 2) → good (q f.t1lNs 3) → good (q f.resetNs 4) →
    good (q f.starthNs 5) → good (q f.startlNs 6) → good (q f.stophNs 7) → good (q f.stoplNs 8) →
    1 ≤ g → g ≤ 32767 → (0 < q f.t0hNs 0 ∨ 0 < q f.t0lNs 1) → (0 < q f.t1hNs 2 ∨ 0 < q f.t1lNs 3) →
      ∃ t tab, exec (.tableBuild ch) s = .next t ∧ t.response = some ⟨.ok, 0⟩ ∧
        t.chan ch = { c with table := tab, tset := 0b11111, built := true } ∧ OnlyChannel ch s t ∧ SameMemory s t ∧
        entry tab.zeroBit (q f.t0hNs 0) (q f.t0lNs 1) ∧ entry tab.oneBit (q f.t1hNs 2) (q f.t1lNs 3) ∧
        entry tab.startBit (q f.starthNs 5) (q f.startlNs 6) ∧ entry tab.stopBit (q f.stophNs 7) (q f.stoplNs 8) ∧
        descDh tab.interframeGap = 0 ∧ descLh tab.interframeGap = f.idleLevel ∧
        descDl tab.interframeGap = g ∧ descLl tab.interframeGap = f.idleLevel

/-- TABLE_BUILD of a pulse-train channel reports the first failing check, in the order tick length, constants 0 to 8,
gap, ZERO_BIT, ONE_BIT, and changes nothing but the response (R105). -/
def Obligations.TableBuildReportsTheFirstFailure : Prop :=
  ∀ (s : State) (ch : ChanId), ch.toNat < s.nCh →
    let c := s.chan ch
    let f := c.cfg
    let k : List Word := [f.t0hNs, f.t0lNs, f.t1hNs, f.t1lNs, f.resetNs, f.starthNs, f.startlNs, f.stophNs, f.stoplNs]
    let bias (i : Nat) : Int := if f.bias.getLsbD (2 * i) then (if f.bias.getLsbD (2 * i + 1) then -1 else 1) else 0
    let q (i : Nat) : Int := (((k.getD i 0).toNat * 1000 / f.tickPs.toNat : Nat) : Int) + bias i
    let good (i : Nat) : Prop := 0 ≤ q i ∧ q i ≤ 32767
    let g := gapTicks s.params.gap c.minFrameUs.toNat (q 4).toNat f.tickPs.toNat
    let fails (reason : Word) : Prop :=
      exec (.tableBuild ch) s = .next { s with response := some ⟨.tableErr, reason⟩ }
    c.state = .idle → f.transportKind = .pulse →
      (f.tickPs = 0 → fails 0x0100) ∧
      (f.tickPs ≠ 0 → ∀ i, i < 9 → ¬good i → (∀ j, j < i → good j) → fails (BitVec.ofNat 32 (0x0200 + i))) ∧
      (f.tickPs ≠ 0 → (∀ i, i < 9 → good i) →
        (¬(1 ≤ g ∧ g ≤ 32767) → fails 0x0500) ∧
        (1 ≤ g → g ≤ 32767 → q 0 = 0 → q 1 = 0 → fails 0x0300) ∧
        (1 ≤ g → g ≤ 32767 → ¬(q 0 = 0 ∧ q 1 = 0) → q 2 = 0 → q 3 = 0 → fails 0x0301))

/-- TABLE_BUILD of a byte-serial channel keeps the entries and completes when all five are set, and names the first
unset one otherwise (R105). -/
def Obligations.TableBuildChecksTheByteSymbols : Prop :=
  ∀ (s : State) (ch : ChanId), ch.toNat < s.nCh →
    let c := s.chan ch
    c.state = .idle → c.cfg.transportKind = .byte →
      ((∀ i, i < 5 → c.tset.getLsbD i = true) →
        ∃ t, exec (.tableBuild ch) s = .next t ∧ t.response = some ⟨.ok, 0⟩ ∧
          t.chan ch = { c with tset := 0b11111, built := true } ∧ OnlyChannel ch s t ∧ SameMemory s t) ∧
      (∀ i, i < 5 → c.tset.getLsbD i = false → (∀ j, j < i → c.tset.getLsbD j = true) →
        exec (.tableBuild ch) s = .next { s with response := some ⟨.tableErr, BitVec.ofNat 32 (0x0400 + i)⟩ })

/-- SET_SYMBOL, whole (R106): a busy channel, a NULL required pulse-train symbol, and the accepted write of one entry
and its TSET bit. -/
def Obligations.SetSymbolReplacesOneEntry : Prop :=
  ∀ (s : State) (ch : ChanId) (y : Sym) (w : Word), ch.toNat < s.nCh →
    let c := s.chan ch
    let id : Sym → Nat := fun
      | .zeroBit => 0
      | .oneBit => 1
      | .interframeGap => 2
      | .startBit => 3
      | .stopBit => 4
    let null := w.toNat % 2 ^ 15 = 0 ∧ w.toNat / 2 ^ 16 % 2 ^ 15 = 0
    let refused := c.cfg.transportKind = .pulse ∧ (y = .zeroBit ∨ y = .oneBit ∨ y = .interframeGap) ∧ null
    (c.state ≠ .idle →
      ∃ t, exec (.setSymbol ch y w) s = .next t ∧ t.response = some ⟨.rejectBusy, 0⟩ ∧
        t.chan ch = { c with err := c.err ||| 1 } ∧ OnlyChannel ch s t ∧ SameMemory s t) ∧
    (c.state = .idle → refused →
      exec (.setSymbol ch y w) s = .next { s with response := some ⟨.rejectRange, 0⟩ }) ∧
    (c.state = .idle → ¬refused →
      ∃ t tab tset', exec (.setSymbol ch y w) s = .next t ∧ t.response = some ⟨.ok, 0⟩ ∧
        t.chan ch = { c with table := tab, tset := tset' } ∧
        tableGet tab y = w ∧ (∀ o, o ≠ y → tableGet tab o = tableGet c.table o) ∧
        tset'.getLsbD (id y) = true ∧ (∀ o, o ≠ y → tset'.getLsbD (id o) = c.tset.getLsbD (id o)) ∧
        OnlyChannel ch s t ∧ SameMemory s t)

/-- LOOKUP, whole (R107), in every frame state; a built table has its five entries configured. -/
def Obligations.LookupReturnsTheEntry : Prop :=
  ∀ (s : State) (ch : ChanId) (y : Sym), ch.toNat < s.nCh →
    let entry : Word :=
      match y with
      | .zeroBit => (s.chan ch).table.zeroBit
      | .oneBit => (s.chan ch).table.oneBit
      | .interframeGap => (s.chan ch).table.interframeGap
      | .startBit => (s.chan ch).table.startBit
      | .stopBit => (s.chan ch).table.stopBit
    tableGet (s.chan ch).table y = entry ∧
    ((s.chan ch).built = true → exec (.lookup ch y) s = .next { s with response := some ⟨.ok, entry⟩ }) ∧
    ((s.chan ch).built = false →
      exec (.lookup ch y) s = .next { s with response := some ⟨.notReady, 0⟩ }) ∧
    (Inv s → (s.chan ch).built = true → (s.chan ch).tset.getLsbD (symIndex y) = true)

/-- The packing of a descriptor (R76): its number, its four fields, and that every word is one. -/
def Obligations.DescriptorPacksItsFourFields : Prop :=
  (∀ (dh dl : Nat) (lh ll : Bool), dh ≤ 32767 → dl ≤ 32767 →
    (desc dh lh dl ll).toNat = ll.toNat * 2 ^ 31 + dl * 2 ^ 16 + lh.toNat * 2 ^ 15 + dh ∧
    descDh (desc dh lh dl ll) = dh ∧ descLh (desc dh lh dl ll) = lh ∧
    descDl (desc dh lh dl ll) = dl ∧ descLl (desc dh lh dl ll) = ll) ∧
  (∀ d : Word, desc (descDh d) (descLh d) (descDl d) (descLl d) = d ∧ descDh d ≤ 32767 ∧ descDl d ≤ 32767)

/-! ## Transport control -/

/-- BEGIN, whole (R115): a busy channel; else the channel is unbound first if it was bound, and then the claim, the
kind and the baud rate are checked in this order, a failure leaving it unbound; else it is bound and records its
`Bind` event. -/
def Obligations.BeginClaimsThePeripheral : Prop :=
  ∀ (s : State) (ch : ChanId), ch.toNat < s.nCh → s.params.wf → s.nCh ≤ 16 →
    let c := s.chan ch
    let f := c.cfg
    let u : Chan := if c.bound then { c with bound := false, intEn := false, fifo := [], ptq := [] } else c
    let claimed := ∃ o : ChanId, o ≠ ch ∧ o.toNat < s.nCh ∧ (s.chan o).bound = true ∧
      ((s.chan o).cfg.periphId = f.periphId ∨ (s.chan o).cfg.pin = f.pin)
    let kindOk := s.params.periphKind[f.periphId.toNat]? = some f.transportKind
    let baud := f.lineBits.toNat * f.dataRate.toNat
    let baudOk := f.lineBits ≠ 0 ∧ f.dataRate ≠ 0 ∧ baud ≤ s.params.baudMax
    let ends (r : Response) (d : Chan) : Prop :=
      ∃ t, exec (.beginCh ch) s = .next t ∧ t.response = some r ∧ t.chan ch = d ∧ OnlyChannel ch s t ∧ SameMemory s t
    (c.state ≠ .idle → ends ⟨.rejectBusy, 0⟩ { c with err := c.err ||| 1 }) ∧
    (c.state = .idle → claimed → ends ⟨.hwUnavailable, 1⟩ u) ∧
    (c.state = .idle → ¬claimed → ¬kindOk → ends ⟨.hwUnavailable, 2⟩ u) ∧
    (c.state = .idle → ¬claimed → kindOk → f.transportKind = .byte → ¬baudOk → ends ⟨.hwUnavailable, 3⟩ u) ∧
    (c.state = .idle → ¬claimed → kindOk → f.transportKind = .byte → baudOk →
      (BitVec.ofNat 32 baud).toNat = baud ∧
      ends ⟨.ok, 0⟩ { u with bound := true, baud := BitVec.ofNat 32 baud,
                             uartTrace := u.uartTrace ++ [.bind (BitVec.ofNat 32 baud) f.wordLen f.stopBits f.invert] }) ∧
    (c.state = .idle → ¬claimed → kindOk → f.transportKind = .pulse →
      ends ⟨.ok, 0⟩ { u with bound := true, line := f.idleLevel, ptTrace := u.ptTrace ++ [.bind f.idleLevel] })

/-- An accepted RENDER of a pulse-train channel queues the whole frame, translated (R116, R135), with the cursor at its
end: START_BIT, for each scaled byte its WIDTH high bits from bit 7 down (R132, R133), STOP_BIT and INTERFRAME_GAP, a
marker with both durations 0 left out (R103). An empty sequence completes the frame in this step. -/
def Obligations.RenderQueuesThePulseFrame : Prop :=
  ∀ (s : State) (ch : ChanId), ch.toNat < s.nCh →
    let c := s.chan ch
    let items := frameItems s.params ch c
    let marker (w : Word) : List Word :=
      if w.toNat % 2 ^ 15 = 0 ∧ w.toNat / 2 ^ 16 % 2 ^ 15 = 0 then [] else [w]
    let started : Chan :=
      { c with curOffset := BitVec.ofNat 32 (frameImage ch c).length, curBits := 0, lastStartUs := s.timeUs,
               started := true, framesStarted := c.framesStarted + 1 }
    items = marker c.table.startBit ++
      ((scaledFrame s.params ch c).flatMap fun x =>
        (List.range c.width.toNat).map fun i => if x.getMsbD i then c.table.oneBit else c.table.zeroBit) ++
      marker c.table.stopBit ++ marker c.table.interframeGap ∧
    (c.bound = true → c.built = true → c.state = .idle →
    (c.started = false ∨ c.minFrameUs.toNat ≤ (s.timeUs - c.lastStartUs).toNat) →
    c.cfg.transportKind = .pulse → c.cfg.bufLen.toNat ≤ s.params.bufMax → items.length ≤ s.params.ptDepth →
      ∃ t, exec (.render ch) s = .next t ∧ t.response = some ⟨.ok, 1⟩ ∧
        t.chan ch = (if items = [] then { started with framesDone := c.framesDone + 1 }
                     else { started with ptq := items, state := .armed, curActive := true }) ∧
        OnlyChannel ch s t ∧ SameMemory s t)

/-- An accepted RENDER of a byte-serial channel resets the cursor, arms the channel and enables its interrupt (R116). -/
def Obligations.RenderArmsTheByteChannel : Prop :=
  ∀ (s : State) (ch : ChanId), ch.toNat < s.nCh →
    let c := s.chan ch
    c.bound = true → c.built = true → c.state = .idle →
    (c.started = false ∨ c.minFrameUs.toNat ≤ (s.timeUs - c.lastStartUs).toNat) → c.cfg.transportKind = .byte →
      ∃ t, exec (.render ch) s = .next t ∧ t.response = some ⟨.ok, 1⟩ ∧
        t.chan ch =
          { c with curOffset := 0, curBits := 0, lastStartUs := s.timeUs, started := true,
                   framesStarted := c.framesStarted + 1, state := .armed, curActive := true, intEn := true } ∧
        OnlyChannel ch s t ∧ SameMemory s t

/-- When RENDER drops or refuses a frame, in the order readiness, busy, pacer, size (R116, R136, R187). -/
def Obligations.RenderRefusesInOrder : Prop :=
  ∀ (s : State) (ch : ChanId), ch.toNat < s.nCh →
    let c := s.chan ch
    let ready := c.bound = true ∧ c.built = true
    let permitted := c.started = false ∨ c.minFrameUs.toNat ≤ (s.timeUs - c.lastStartUs).toNat
    (¬ready → exec (.render ch) s = .next { s with response := some ⟨.notReady, 0⟩ }) ∧
    (ready → c.state ≠ .idle → exec (.render ch) s = .next { s with response := some ⟨.ok, 0⟩ }) ∧
    (ready → c.state = .idle → ¬permitted → exec (.render ch) s = .next { s with response := some ⟨.ok, 0⟩ }) ∧
    (ready → c.state = .idle → permitted → c.cfg.transportKind = .pulse →
      s.params.ptDepth < (frameItems s.params ch c).length →
      ∃ t, exec (.render ch) s = .next t ∧ t.response = some ⟨.oversize, 0⟩ ∧
        t.chan ch = { c with err := c.err ||| 4 } ∧ OnlyChannel ch s t ∧ SameMemory s t)

/-- A RENDER that returns value 0 leaves no trace of itself but ERR.OVERSIZE for an oversize frame (R123). -/
def Obligations.RenderWithValueZeroLeavesNoTrace : Prop :=
  ∀ (s t : State) (ch : ChanId) (r : Response), ch.toNat < s.nCh →
    exec (.render ch) s = .next t → t.response = some r → r.value = 0 →
      (r.status ≠ .oversize → t = { s with response := some r }) ∧
      (r.status = .oversize →
        (s.chan ch).cfg.transportKind = .pulse ∧ t.chan ch = { s.chan ch with err := (s.chan ch).err ||| 4 } ∧
        OnlyChannel ch s t ∧ SameMemory s t)

/-- A RENDER that returns value 1 found the channel ready, idle and permitted by the pacer, and recorded its start
(R175). -/
def Obligations.FramesStartOnlyWhenThePacerPermits : Prop :=
  ∀ (s t : State) (ch : ChanId) (st : Status), ch.toNat < s.nCh →
    exec (.render ch) s = .next t → t.response = some ⟨st, 1⟩ →
      canStart (s.chan ch) s.timeUs = true ∧
      ((s.chan ch).started = true → (s.chan ch).minFrameUs.toNat ≤ (s.timeUs - (s.chan ch).lastStartUs).toNat) ∧
      (s.chan ch).state = .idle ∧ (s.chan ch).bound = true ∧ (s.chan ch).built = true ∧
      (t.chan ch).lastStartUs = s.timeUs ∧ (t.chan ch).started = true ∧
      (t.chan ch).framesStarted = (s.chan ch).framesStarted + 1

/-- STOP, whole (R117), in every state of the channel. -/
def Obligations.StopForcesIdle : Prop :=
  ∀ (s : State) (ch : ChanId), ch.toNat < s.nCh →
    let c := s.chan ch
    ∃ t, exec (.stop ch) s = .next t ∧ t.response = some ⟨.ok, 0⟩ ∧
      t.chan ch =
        { c with intEn := false, fifo := [], ptq := [], state := .idle, curActive := false,
                 line := if c.bound = true ∧ c.cfg.transportKind = .pulse then c.cfg.idleLevel else c.line } ∧
      OnlyChannel ch s t ∧ SameMemory s t

/-- PAUSE, whole (R118). -/
def Obligations.PauseDisablesTheInterrupt : Prop :=
  ∀ (s : State) (ch : ChanId), ch.toNat < s.nCh →
    let c := s.chan ch
    let pauses := c.cfg.transportKind = .byte ∧ (c.state = .armed ∨ c.state = .streaming)
    (pauses →
      ∃ t, exec (.pause ch) s = .next t ∧ t.response = some ⟨.ok, 0⟩ ∧
        t.chan ch = { c with intEn := false, state := .paused } ∧ OnlyChannel ch s t ∧ SameMemory s t) ∧
    (¬pauses → exec (.pause ch) s = .next { s with response := some ⟨.ok, 0⟩ })

/-- RESUME, whole (R119). -/
def Obligations.ResumeEnablesTheInterrupt : Prop :=
  ∀ (s : State) (ch : ChanId), ch.toNat < s.nCh →
    let c := s.chan ch
    (c.state = .paused →
      ∃ t, exec (.resume ch) s = .next t ∧ t.response = some ⟨.ok, 0⟩ ∧
        t.chan ch = { c with intEn := true, state := .streaming } ∧ OnlyChannel ch s t ∧ SameMemory s t) ∧
    (c.state ≠ .paused → exec (.resume ch) s = .next { s with response := some ⟨.ok, 0⟩ })

/-- SET_MIN_FRAME, whole (R120): a busy channel; on a built pulse-train table a gap that does not fit, or the threshold
with the regenerated gap; else the threshold alone. `r` is the number of reset ticks of R101, which a built table has
(R105). -/
def Obligations.SetMinFrameSetsThePacerAndTheGap : Prop :=
  ∀ (s : State) (ch : ChanId) (us : Word), ch.toNat < s.nCh →
    let c := s.chan ch
    let f := c.cfg
    let bias : Int := if f.bias.getLsbD 8 then (if f.bias.getLsbD 9 then -1 else 1) else 0
    let resets (r : Nat) : Prop := (r : Int) = ((f.resetNs.toNat * 1000 / f.tickPs.toNat : Nat) : Int) + bias
    let g (r : Nat) := gapTicks s.params.gap us.toNat r f.tickPs.toNat
    let regenerates := f.transportKind = .pulse ∧ c.built = true
    let ends (x : Response) (d : Chan) : Prop :=
      ∃ t, exec (.setMinFrame ch us) s = .next t ∧ t.response = some x ∧ t.chan ch = d ∧ OnlyChannel ch s t ∧
        SameMemory s t
    (c.state ≠ .idle → ends ⟨.rejectBusy, 0⟩ { c with err := c.err ||| 1 }) ∧
    (∀ r, resets r → c.state = .idle → regenerates → ¬(1 ≤ g r ∧ g r ≤ 32767) →
      exec (.setMinFrame ch us) s = .next { s with response := some ⟨.rejectRange, 0⟩ }) ∧
    (∀ r, resets r → c.state = .idle → regenerates → 1 ≤ g r → g r ≤ 32767 →
      ends ⟨.ok, 0⟩ { c with minFrameUs := us,
                             table := { c.table with interframeGap := desc 0 f.idleLevel (g r) f.idleLevel } }) ∧
    (c.state = .idle → ¬regenerates → ends ⟨.ok, 0⟩ { c with minFrameUs := us })

/-- SET_WIDTH, whole (R121). -/
def Obligations.SetWidthTakesOneToEight : Prop :=
  ∀ (s : State) (ch : ChanId) (w : Word), ch.toNat < s.nCh →
    let c := s.chan ch
    (c.state ≠ .idle →
      ∃ t, exec (.setWidth ch w) s = .next t ∧ t.response = some ⟨.rejectBusy, 0⟩ ∧
        t.chan ch = { c with err := c.err ||| 1 } ∧ OnlyChannel ch s t ∧ SameMemory s t) ∧
    (c.state = .idle → ¬(1 ≤ w.toNat ∧ w.toNat ≤ 8) →
      exec (.setWidth ch w) s = .next { s with response := some ⟨.rejectRange, 0⟩ }) ∧
    (c.state = .idle → 1 ≤ w.toNat → w.toNat ≤ 8 →
      ∃ t, exec (.setWidth ch w) s = .next t ∧ t.response = some ⟨.ok, 0⟩ ∧
        t.chan ch = { c with width := BitVec.ofNat 4 w.toNat } ∧ OnlyChannel ch s t ∧ SameMemory s t)

/-- Every command that changes configuration, table or buffer is refused with REJECT_BUSY while the channel is not idle,
once its target checks have passed, and records ERR.PRECOND (R97, R186, R187). -/
def Obligations.BusyChannelRefusesEveryChange : Prop :=
  ∀ (s : State) (ch : ChanId) (i : Instr), ch.toNat < s.nCh → (s.chan ch).state ≠ .idle →
    (i = .tableBuild ch ∨ i = .beginCh ch ∨ (∃ y w, i = .setSymbol ch y w) ∨ (∃ us, i = .setMinFrame ch us) ∨
      (∃ w, i = .setWidth ch w) ∨ (∃ field v, i = .cfgWrite ch field v ∧ field.toNat ≤ 0x20) ∨
      (∃ a b, i = .bufWrite ch a b ∧ a.toNat < (s.chan ch).cfg.bufLen.toNat)) →
    ∃ t, exec i s = .next t ∧ t.response = some ⟨.rejectBusy, 0⟩ ∧
      t.chan ch = { s.chan ch with err := (s.chan ch).err ||| 1 } ∧ OnlyChannel ch s t ∧ SameMemory s t

/-! ## Frame pump, pacer and contexts -/

/-- The frame image (R165): prepend bytes, the cells with a group preamble before each group, append bytes; framing at
unity, cells at BRIGHTNESS; and its length by the formula. -/
def Obligations.FrameImageIsLaidOut : Prop :=
  ∀ (ch : ChanId) (c : Chan),
    let f := c.cfg
    let framing (w : Word) (n : Nat) : List (Byte × Multiplier) :=
      (List.range n).map fun k => (BitVec.ofNat 8 (w.toNat / 2 ^ (8 * k)), 256)
    let group (i : Nat) : List (Byte × Multiplier) :=
      if f.pumpKind = .pixel ∧ 0 < f.groupSize.toNat ∧ i % f.groupSize.toNat = 0 then framing f.grpBytes f.grpLen.toNat
      else []
    frameImage ch c =
      framing f.preBytes f.preLen.toNat ++
      (List.range f.bufLen.toNat).flatMap (fun i => group i ++ [(cellByte ch c i, f.brightness)]) ++
      framing f.appBytes f.appLen.toNat ∧
    (frameImage ch c).length =
      f.preLen.toNat + f.bufLen.toNat + f.appLen.toNat +
      (if f.pumpKind = .pixel ∧ 0 < f.groupSize.toNat then
        (f.bufLen.toNat + f.groupSize.toNat - 1) / f.groupSize.toNat * f.grpLen.toNat else 0)

/-- PUMP_MORE, whole (R167): 1 while the cursor is below the length of the frame image. -/
def Obligations.PumpMoreComparesCursorAndLength : Prop :=
  ∀ (s : State) (ch : ChanId), ch.toNat < s.nCh →
    let c := s.chan ch
    (c.curOffset.toNat < (frameImage ch c).length →
      exec (.pumpMore ch) s = .next { s with response := some ⟨.ok, 1⟩ }) ∧
    ((frameImage ch c).length ≤ c.curOffset.toNat →
      exec (.pumpMore ch) s = .next { s with response := some ⟨.ok, 0⟩ })

/-- PUMP_NEXT, whole (R169): in the interrupt context the pair at the cursor, which advances; past the end
`(0, 256)` and ERR.OVERREAD; CONTEXT for the host. -/
def Obligations.PumpNextReadsTheImage : Prop :=
  ∀ (s : State) (ch : ChanId), ch.toNat < s.nCh →
    let c := s.chan ch
    (∀ v m, s.context = .interrupt → (frameImage ch c)[c.curOffset.toNat]? = some (v, m) →
      c.cfg.bufLen.toNat ≤ s.params.bufMax →
      ∃ t, exec (.pumpNext ch) s = .next t ∧
        t.response = some ⟨.ok, BitVec.ofNat 32 (m.toNat * 256 + v.toNat)⟩ ∧
        t.chan ch = { c with curOffset := c.curOffset + 1 } ∧ OnlyChannel ch s t ∧ SameMemory s t) ∧
    (s.context = .interrupt → (frameImage ch c).length ≤ c.curOffset.toNat →
      ∃ t, exec (.pumpNext ch) s = .next t ∧ t.response = some ⟨.ok, 0x10000⟩ ∧
        t.chan ch = { c with err := c.err ||| 2 } ∧ OnlyChannel ch s t ∧ SameMemory s t) ∧
    (s.context = .host →
      exec (.pumpNext ch) s = .next { s with gerr := s.gerr ||| 2, response := some ⟨.context, 0⟩ })

/-- PUMP_START and PACER_RECORD in the interrupt context (R166, R171). That they leave the response port alone is the
model's choice (log 9). -/
def Obligations.PumpStartAndPacerRecordInTheInterruptContext : Prop :=
  ∀ (s : State) (ch : ChanId), ch.toNat < s.nCh → s.context = .interrupt →
    (∃ t, exec (.pumpStart ch) s = .next t ∧ t.chan ch = { s.chan ch with curOffset := 0, curBits := 0 } ∧
      OnlyChannel ch s t ∧ SameMemory s t ∧ t.response = s.response) ∧
    (∃ t, exec (.pacerRecord ch) s = .next t ∧
      t.chan ch = { s.chan ch with lastStartUs := s.timeUs, started := true } ∧
      OnlyChannel ch s t ∧ SameMemory s t ∧ t.response = s.response)

/-- PACER_QUERY, whole (R170, R172): the 32-bit wrap-around difference against MIN_FRAME_US. -/
def Obligations.PacerQueryComparesTheDifference : Prop :=
  ∀ (s : State) (ch : ChanId), ch.toNat < s.nCh →
    let c := s.chan ch
    let permits := c.started = false ∨
      c.minFrameUs.toNat ≤ (s.timeUs.toNat + 2 ^ 32 - c.lastStartUs.toNat) % 2 ^ 32
    (permits → exec (.pacerQuery ch) s = .next { s with response := some ⟨.ok, 1⟩ }) ∧
    (¬permits → exec (.pacerQuery ch) s = .next { s with response := some ⟨.ok, 0⟩ })

/-- The four interrupt-context commands, issued by the host, answer CONTEXT, set GERR.CONTEXT and change nothing else
(R192). -/
def Obligations.HostGetsContextForInternalCommands : Prop :=
  ∀ (s : State) (ch : ChanId) (i : Instr), ch.toNat < s.nCh → s.context = .host →
    (i = .isrFill ch ∨ i = .pumpStart ch ∨ i = .pumpNext ch ∨ i = .pacerRecord ch) →
      exec i s = .next { s with gerr := s.gerr ||| 2, response := some ⟨.context, 0⟩ }

/-- SCALE (R168): unity leaves a byte alone whatever the function, and the default is the product over 256. -/
def Obligations.ScaleIsUnityAt256 : Prop :=
  (∀ (f : ScaleFn) (v : Byte), scale f v 256 = v) ∧
  (∀ (v : Byte) (m : Multiplier), m.toNat ≤ 256 → (scale .standard v m).toNat = v.toNat * m.toNat / 256)

/-! ## Agents -/

/-- ISR_FILL on a channel whose interrupt is pending, whole and in closed form (R151 to R154): as many whole values as
the free slots hold, the bytes of each, and the changes of the frame state. The host's issue answers CONTEXT. That the
refill leaves the response port alone is the model's choice (log 9). -/
def Obligations.IsrFillQueuesWholeValues : Prop :=
  ∀ (s : State) (ch : ChanId), ch.toNat < s.nCh →
    let c := s.chan ch
    let per := if c.cfg.xlatEn then c.cfg.bpb.toNat * c.width.toNat else 1
    let n := (s.params.fifoDepth - c.fifo.length) / per
    let values := ((scaledFrame s.params ch c).drop c.curOffset.toNat).take n
    let bytesOfValue (x : Byte) : List Byte :=
      if c.cfg.xlatEn then
        (List.range c.width.toNat).flatMap fun i =>
          (List.range c.cfg.bpb.toNat).map (byteOf (if x.getMsbD i then c.table.oneBit else c.table.zeroBit))
      else [x]
    let bytes := values.flatMap bytesOfValue
    let ended := (frameImage ch c).length ≤ c.curOffset.toNat + values.length
    (s.context = .interrupt → irqPending c = true → c.cfg.bufLen.toNat ≤ s.params.bufMax →
      ∃ t, exec (.isrFill ch) s = .next t ∧ t.response = s.response ∧
        t.chan ch =
          { c with fifo := c.fifo ++ bytes,
                   curOffset := c.curOffset + BitVec.ofNat 32 values.length,
                   state := if ended then .idle
                            else if bytes ≠ [] ∧ c.state = .armed then .streaming else c.state,
                   intEn := if ended then false else c.intEn,
                   curActive := if ended then false else c.curActive,
                   framesDone := if ended then c.framesDone + 1 else c.framesDone } ∧
        OnlyChannel ch s t ∧ SameMemory s t) ∧
    (s.context = .host →
      exec (.isrFill ch) s = .next { s with gerr := s.gerr ||| 2, response := some ⟨.context, 0⟩ })

/-- No refill overruns the FIFO, and a refill of an empty FIFO makes progress while data remains (R152). -/
def Obligations.RefillNeitherOverrunsNorStalls : Prop :=
  ∀ (s : State) (ch : ChanId), ch.toNat < s.nCh →
    let c := s.chan ch
    s.context = .interrupt → irqPending c = true → c.cfg.bufLen.toNat ≤ s.params.bufMax →
    1 ≤ c.cfg.bpb.toNat → c.cfg.bpb.toNat ≤ 4 → 1 ≤ c.width.toNat → c.width.toNat ≤ 8 → 32 ≤ s.params.fifoDepth →
    c.fifo.length ≤ s.params.fifoDepth →
      ∃ t, exec (.isrFill ch) s = .next t ∧ (t.chan ch).fifo.length ≤ s.params.fifoDepth ∧
        (∃ k, (t.chan ch).fifo.length =
          c.fifo.length + k * (if c.cfg.xlatEn then c.cfg.bpb.toNat * c.width.toNat else 1)) ∧
        (c.fifo = [] → c.curOffset.toNat < (frameImage ch c).length →
          c.curOffset.toNat < (t.chan ch).curOffset.toNat)

/-- The interrupt is pending, and `ISR(ch)` enabled, exactly while it is enabled by INT_EN and the FIFO is below
FIFO_THRESH or empty (R155). It is taken by the step of `ISR(ch)`, which runs ISR_FILL in the interrupt context and
returns to the host's, restoring nothing else (R189, R190; the context in force is the model's field, log 7). -/
def Obligations.InterruptRunsTheRefillAndReturns : Prop :=
  ∀ (s : State) (ch : ChanId), ch.toNat < s.nCh →
    let c := s.chan ch
    let pending := c.intEn = true ∧ (c.fifo.length < c.cfg.fifoThresh.toNat ∨ c.fifo = [])
    (irqPending c = true ↔ pending) ∧ (enabled s (.isr ch) = true ↔ pending) ∧
    ∀ (u : State) (rest : List Agent), irqPending c = true → s.schedule = .isr ch :: rest →
      exec (.isrFill ch) { s with schedule := rest, context := .interrupt } = .next u →
        step s = .next { u with context := .host }

/-- The step of `PT(ch)` (R140, R141): one item, its segments in order, the line, and the frame state; enabled while
its queue holds an item. -/
def Obligations.PulsePeripheralEmitsOneItem : Prop :=
  ∀ (s : State) (ch : ChanId), ch.toNat < s.nCh →
    let c := s.chan ch
    (enabled s (.pt ch) = true ↔ c.ptq ≠ []) ∧
    ∀ (d : Word) (q : List Word) (rest : List Agent), c.ptq = d :: q → s.schedule = .pt ch :: rest →
      ∃ t, step s = .next t ∧ t.response = s.response ∧
        t.chan ch =
          { c with ptq := q,
                   ptTrace := c.ptTrace ++
                     (if 0 < descDh d then [.seg (descLh d) (descDh d)] else []) ++
                     (if 0 < descDl d then [.seg (descLl d) (descDl d)] else []),
                   line := if q = [] then c.cfg.idleLevel
                           else if 0 < descDl d then descLl d else if 0 < descDh d then descLh d else c.line,
                   state := if q = [] then .idle else if c.state = .armed then .streaming else c.state,
                   curActive := if q = [] then false else c.curActive,
                   framesDone := if q = [] then c.framesDone + 1 else c.framesDone } ∧
        OnlyChannel ch { s with schedule := rest } t ∧ SameMemory s t

/-- The step of `UART(ch)` (R156), in every frame state; enabled while the FIFO holds a byte. -/
def Obligations.SerialPeripheralEmitsOneByte : Prop :=
  ∀ (s : State) (ch : ChanId), ch.toNat < s.nCh →
    let c := s.chan ch
    (enabled s (.uart ch) = true ↔ c.fifo ≠ []) ∧
    ∀ (b : Byte) (q : List Byte) (rest : List Agent), c.fifo = b :: q → s.schedule = .uart ch :: rest →
      ∃ t, step s = .next t ∧ t.response = s.response ∧
        t.chan ch = { c with fifo := q, uartTrace := c.uartTrace ++ [.byte b] } ∧
        OnlyChannel ch { s with schedule := rest } t ∧ SameMemory s t

/-- TIME_US is moved by CLOCK's step alone, by one modulo 2^32, and by it nothing else moves (R40, R181); it reads as
status field 0x60 through any channel and is 0 after reset. -/
def Obligations.OnlyTheClockMovesTime : Prop :=
  (∀ s t : State, step s = .next t → (nextMove s).1 ≠ .clock → t.timeUs = s.timeUs) ∧
  (∀ s : State, enabled s .clock = true ∧
    ((nextMove s).1 = .clock →
      step s = .next { (nextMove s).2 with timeUs := BitVec.ofNat 32 ((s.timeUs.toNat + 1) % 2 ^ 32) })) ∧
  (∀ (s : State) (ch : ChanId), ch.toNat < s.nCh →
    exec (.cfgRead ch 0x60) s = .next { s with response := some ⟨.ok, s.timeUs⟩ }) ∧
  State.reset.timeUs = 0

/-- A loaded queue drains in as many steps of `PT(ch)` as it has items: the trace gains every item's segments in order
and the channel ends idle with the frame counted (R126, R138, R140, R141). -/
def Obligations.LoadedQueueDrainsInOrder : Prop :=
  ∀ (s : State) (ch : ChanId) (items : List Word) (rest : List Agent), ch.toNat < s.nCh →
    let c := s.chan ch
    items ≠ [] → c.ptq = items → s.schedule = List.replicate items.length (.pt ch) ++ rest →
      ∃ t, stepN items.length s = .next t ∧
        t.chan ch =
          { c with ptq := [], ptTrace := c.ptTrace ++ items.flatMap itemEvents, line := c.cfg.idleLevel,
                   state := .idle, curActive := false, framesDone := c.framesDone + 1 } ∧
        OnlyChannel ch { s with schedule := rest } t ∧ SameMemory s t ∧ t.response = s.response

/-- The items of a frame decode, by the same table, to the bits of its scaled bytes (R143); at width 8 and unity
brightness the bytes they spell are the frame image (R144). -/
def Obligations.PulseFrameDecodesToItsBytes : Prop :=
  ∀ (p : Params) (ch : ChanId) (c : Chan), 1 ≤ c.width.toNat → c.width.toNat ≤ 8 → c.table.oneBit ≠ c.table.zeroBit →
    let bits := decodeItems c.table (frameItems p ch c)
    piecesOf c.width.toNat bits.length bits = (scaledFrame p ch c).map (bitsOf c.width.toNat) ∧
    (c.width = 8 → c.cfg.brightness = 256 →
      (piecesOf 8 bits.length bits).map byteOfBits = (frameImage ch c).map Prod.fst)

/-- The bytes a byte-serial frame queues demultiplex, by the two patterns, to the bits of its scaled bytes (R161); at
width 8 and unity brightness they spell the frame image. In direct mode they are the scaled frame image itself. -/
def Obligations.ByteStreamDemultiplexesToItsBytes : Prop :=
  ∀ (p : Params) (ch : ChanId) (c : Chan),
    let bytes := (scaledFrame p ch c).flatMap (valueBytes c)
    let bits := demuxBytes c.table c.cfg.bpb.toNat bytes
    (c.cfg.xlatEn = true → 1 ≤ c.cfg.bpb.toNat → c.cfg.bpb.toNat ≤ 4 → 1 ≤ c.width.toNat → c.width.toNat ≤ 8 →
      bytesOf c.table.oneBit c.cfg.bpb.toNat ≠ bytesOf c.table.zeroBit c.cfg.bpb.toNat →
      piecesOf c.width.toNat bits.length bits = (scaledFrame p ch c).map (bitsOf c.width.toNat) ∧
      (c.width = 8 → c.cfg.brightness = 256 →
        (piecesOf 8 bits.length bits).map byteOfBits = (frameImage ch c).map Prod.fst)) ∧
    (c.cfg.xlatEn = false → bytes = scaledFrame p ch c)

/-! ## Reset and the whole machine -/

/-- What reset leaves in every channel and globally (R205), for every value of the parameters and every number of
channels; a buffer cell reads as its draw, of which nothing is known (R43, log 4). -/
def Obligations.ResetLeavesTheStatedValues : Prop :=
  ∀ (p : Params) (n : Nat) (ch : ChanId), ch.toNat < n →
    let s := State.resetWith p n
    let c := s.chan ch
    (c.cfg.transportKind = .pulse ∧ c.cfg.periphId = 0 ∧ c.cfg.pin = 0 ∧ c.cfg.idleLevel = false ∧
      c.cfg.invert = false ∧ c.cfg.bufLen = 0 ∧ c.cfg.groupSize = 0 ∧ c.cfg.pumpKind = .pixel ∧
      c.cfg.brightness = 256 ∧ c.cfg.fifoThresh = 0 ∧ c.cfg.xlatEn = true ∧ c.cfg.bpb = 1 ∧ c.cfg.lineBits = 0 ∧
      c.cfg.dataRate = 0 ∧ c.cfg.wordLen = 8 ∧ c.cfg.stopBits = 1 ∧ c.cfg.tickPs = 0) ∧
    (c.cfg.t0hNs = 0 ∧ c.cfg.t0lNs = 0 ∧ c.cfg.t1hNs = 0 ∧ c.cfg.t1lNs = 0 ∧ c.cfg.resetNs = 0 ∧ c.cfg.starthNs = 0 ∧
      c.cfg.startlNs = 0 ∧ c.cfg.stophNs = 0 ∧ c.cfg.stoplNs = 0 ∧ c.cfg.bias = 0 ∧ c.cfg.preLen = 0 ∧
      c.cfg.preBytes = 0 ∧ c.cfg.appLen = 0 ∧ c.cfg.appBytes = 0 ∧ c.cfg.grpLen = 0 ∧ c.cfg.grpBytes = 0) ∧
    (c.state = .idle ∧ c.bound = false ∧ c.baud = 0 ∧ c.minFrameUs = 0 ∧ c.width = 8 ∧ c.tset = 0 ∧
      c.built = false ∧ (∀ y, tableGet c.table y = 0) ∧ c.curOffset = 0 ∧ c.curBits = 0 ∧ c.curActive = false ∧
      c.lastStartUs = 0 ∧ c.started = false ∧ c.intEn = false ∧ c.fifo = [] ∧ c.ptq = [] ∧ c.line = false ∧
      c.ptTrace = [] ∧ c.uartTrace = [] ∧ c.framesStarted = 0 ∧ c.framesDone = 0 ∧ c.err = 0) ∧
    s.timeUs = 0 ∧ s.gerr = 0 ∧ s.context = .host ∧ irqPending c = false ∧
    (∀ a, s.cell ch a = Config.ibufInit ch.toNat a)

/-- The reset state meets the invariant (R45, R205), for every legal value of the parameters. -/
def Obligations.InvariantHoldsAtReset : Prop :=
  (∀ (p : Params) (n : Nat), p.wf → 1 ≤ n → n ≤ 16 → Inv (State.resetWith p n)) ∧ Inv State.reset

/-- Every step keeps the invariant (R45): the frame-active flag, the interrupt enable, the queues, the claims, the
legal fields, the cursor within the frame and the memory's canonical form. -/
def Obligations.EveryStepKeepsTheInvariant : Prop :=
  ∀ s t : State, Inv s → step s = .next t → Inv t

/-- No step stops the machine: from a state that meets the invariant every step completes (R8). -/
def Obligations.EveryStepCompletes : Prop :=
  ∀ s : State, Inv s → ∃ t, step s = .next t

/-- A sticky bit once set stays set (R186). -/
def Obligations.StickyBitsStaySet : Prop :=
  ∀ s t : State, step s = .next t →
    s.gerr &&& t.gerr = s.gerr ∧ ∀ ch : ChanId, (s.chan ch).err &&& (t.chan ch).err = (s.chan ch).err

/-- A command changes no channel but its own (R197). -/
def Obligations.CommandsChangeOnlyTheirChannel : Prop :=
  ∀ (s t : State) (i : Instr), exec i s = .next t →
    t.nCh = s.nCh ∧ t.params = s.params ∧ t.timeUs = s.timeUs ∧
    ∀ o : ChanId, i.channel ≠ some o → t.chan o = s.chan o ∧ ∀ a, t.cell o a = s.cell o a

/-- What a command other than BEGIN answers and does to its channel depends on no other channel (R197). -/
def Obligations.CommandsDependOnlyOnTheirChannel : Prop :=
  ∀ (i : Instr) (ch : ChanId) (s1 s2 t1 : State), i.channel = some ch → i ≠ .beginCh ch →
    s1.params = s2.params → s1.nCh = s2.nCh → s1.timeUs = s2.timeUs → s1.gerr = s2.gerr → s1.context = s2.context →
    s1.response = s2.response → s1.chan ch = s2.chan ch → exec i s1 = .next t1 →
      ∃ t2, exec i s2 = .next t2 ∧ t2.response = t1.response ∧ t2.chan ch = t1.chan ch ∧ t2.gerr = t1.gerr

/-- During a frame no step changes what the frame is made of: configuration, table, width, buffer, and so the frame
image (R65, R68, R108, R165). -/
def Obligations.FrameDataIsConstantDuringAFrame : Prop :=
  ∀ (s t : State) (ch : ChanId), step s = .next t → (s.chan ch).state ≠ .idle →
    let c := s.chan ch
    let d := t.chan ch
    d.cfg = c.cfg ∧ d.table = c.table ∧ d.tset = c.tset ∧ d.built = c.built ∧ d.width = c.width ∧ d.bound = c.bound ∧
    d.minFrameUs = c.minFrameUs ∧ d.ibuf = c.ibuf ∧ frameImage ch d = frameImage ch c ∧
    frameItems s.params ch d = frameItems s.params ch c

/-- Every change of STATE is a row of R122, made by the agent or command the row names. -/
def Obligations.FrameStateMovesOnlyByTheTable : Prop :=
  ∀ (s t : State) (ch : ChanId), Inv s → step s = .next t →
    let c := s.chan ch
    let d := t.chan ch
    let a := (nextMove s).1
    let issues (i : Instr) : Prop :=
      a = .host ∧ ∃ w u, s.takeCommand = some (w, u) ∧ decode s.nCh w.1 w.2 = .ok i
    let busy := c.state = .armed ∨ c.state = .streaming
    c.state = d.state ∨
    (c.state = .idle ∧ d.state = .armed ∧ issues (.render ch) ∧ canStart c s.timeUs = true ∧
      (c.cfg.transportKind = .byte → d.intEn = true) ∧ (c.cfg.transportKind = .pulse → d.ptq ≠ [])) ∨
    (c.state = .armed ∧ d.state = .streaming ∧ c.cfg.transportKind = .pulse ∧ a = .pt ch ∧ d.ptq ≠ []) ∨
    (busy ∧ d.state = .idle ∧ c.cfg.transportKind = .pulse ∧ a = .pt ch ∧ d.ptq = []) ∨
    (c.state = .armed ∧ d.state = .streaming ∧ c.cfg.transportKind = .byte ∧ a = .isr ch ∧
      c.fifo.length < d.fifo.length ∧ pumpMore d = true) ∨
    (busy ∧ d.state = .idle ∧ c.cfg.transportKind = .byte ∧ a = .isr ch ∧ pumpMore d = false ∧ d.intEn = false) ∨
    (busy ∧ d.state = .paused ∧ c.cfg.transportKind = .byte ∧ issues (.pause ch) ∧ d.intEn = false) ∨
    (c.state = .paused ∧ d.state = .streaming ∧ issues (.resume ch) ∧ d.intEn = true) ∨
    (d.state = .idle ∧ issues (.stop ch))

/-- Every run in which the host stops issuing commands reaches a quiescent state: queued items and bytes drain and the
refills come to an end (R217; the run's weak fairness is the model's choice of the next agent, log 15, and its states
meet the invariant that every step keeps). In a quiescent state every channel is idle or paused, and a step is CLOCK's:
it moves TIME_US, the model's own three fields of the schedule (log 5, log 15) and nothing else, and the state stays
quiescent. -/
def Obligations.RunsWhoseHostStopsEndQuiescent : Prop :=
  (∀ s t : State, Inv s → Quiescent s → step s = .next t →
    (∀ ch : ChanId, ch.toNat < s.nCh → (s.chan ch).state = .idle ∨ (s.chan ch).state = .paused) ∧
    t = { s with timeUs := s.timeUs + 1, schedule := t.schedule, turn := t.turn, drawn := t.drawn } ∧ Quiescent t) ∧
  (∀ run : Nat → State, IsRun run → (∀ n, Inv (run n)) → (∃ n, ∀ m, n ≤ m → (nextMove (run m)).1 ≠ .host) →
    ∃ m, Quiescent (run m))
end

