-- ==== Sys2Proof/Laws/State.lean ====
section
/-! SUPPORT. One lemma per field per update of the state and of a channel, each true by unfolding the update. -/
namespace Sys2Proof.Machine

open Sys2Proof

/-! ## Updates of the machine state -/

/-! ### `State.respond` -/

@[simp] theorem State.respond_params (s : State) (st : Status) (v : Word) : (s.respond st v).params = s.params := rfl
@[simp] theorem State.respond_chans (s : State) (st : Status) (v : Word) : (s.respond st v).chans = s.chans := rfl
@[simp] theorem State.respond_timeUs (s : State) (st : Status) (v : Word) : (s.respond st v).timeUs = s.timeUs := rfl
@[simp] theorem State.respond_gerr (s : State) (st : Status) (v : Word) : (s.respond st v).gerr = s.gerr := rfl
@[simp] theorem State.respond_context (s : State) (st : Status) (v : Word) : (s.respond st v).context = s.context := rfl
@[simp] theorem State.respond_response (s : State) (st : Status) (v : Word) : (s.respond st v).response = some ⟨st, v⟩ := rfl
@[simp] theorem State.respond_hostTrace (s : State) (st : Status) (v : Word) : (s.respond st v).hostTrace = s.hostTrace := rfl
@[simp] theorem State.respond_commands (s : State) (st : Status) (v : Word) : (s.respond st v).commands = s.commands := rfl
@[simp] theorem State.respond_onward (s : State) (st : Status) (v : Word) : (s.respond st v).onward = s.onward := rfl
@[simp] theorem State.respond_schedule (s : State) (st : Status) (v : Word) : (s.respond st v).schedule = s.schedule := rfl
@[simp] theorem State.respond_turn (s : State) (st : Status) (v : Word) : (s.respond st v).turn = s.turn := rfl
@[simp] theorem State.respond_drawn (s : State) (st : Status) (v : Word) : (s.respond st v).drawn = s.drawn := rfl

/-! ### `State.setChan` -/

@[simp] theorem State.setChan_params (s : State) (ch : ChanId) (c : Chan) : (s.setChan ch c).params = s.params := rfl
@[simp] theorem State.setChan_chans (s : State) (ch : ChanId) (c : Chan) : (s.setChan ch c).chans = s.chans.set ch.toNat c := rfl
@[simp] theorem State.setChan_timeUs (s : State) (ch : ChanId) (c : Chan) : (s.setChan ch c).timeUs = s.timeUs := rfl
@[simp] theorem State.setChan_gerr (s : State) (ch : ChanId) (c : Chan) : (s.setChan ch c).gerr = s.gerr := rfl
@[simp] theorem State.setChan_context (s : State) (ch : ChanId) (c : Chan) : (s.setChan ch c).context = s.context := rfl
@[simp] theorem State.setChan_response (s : State) (ch : ChanId) (c : Chan) : (s.setChan ch c).response = s.response := rfl
@[simp] theorem State.setChan_hostTrace (s : State) (ch : ChanId) (c : Chan) : (s.setChan ch c).hostTrace = s.hostTrace := rfl
@[simp] theorem State.setChan_commands (s : State) (ch : ChanId) (c : Chan) : (s.setChan ch c).commands = s.commands := rfl
@[simp] theorem State.setChan_onward (s : State) (ch : ChanId) (c : Chan) : (s.setChan ch c).onward = s.onward := rfl
@[simp] theorem State.setChan_schedule (s : State) (ch : ChanId) (c : Chan) : (s.setChan ch c).schedule = s.schedule := rfl
@[simp] theorem State.setChan_turn (s : State) (ch : ChanId) (c : Chan) : (s.setChan ch c).turn = s.turn := rfl
@[simp] theorem State.setChan_drawn (s : State) (ch : ChanId) (c : Chan) : (s.setChan ch c).drawn = s.drawn := rfl

/-! ### `State.enterInterrupt` -/

@[simp] theorem State.enterInterrupt_params (s : State) : (s.enterInterrupt).params = s.params := rfl
@[simp] theorem State.enterInterrupt_chans (s : State) : (s.enterInterrupt).chans = s.chans := rfl
@[simp] theorem State.enterInterrupt_timeUs (s : State) : (s.enterInterrupt).timeUs = s.timeUs := rfl
@[simp] theorem State.enterInterrupt_gerr (s : State) : (s.enterInterrupt).gerr = s.gerr := rfl
@[simp] theorem State.enterInterrupt_context (s : State) : (s.enterInterrupt).context = .interrupt := rfl
@[simp] theorem State.enterInterrupt_response (s : State) : (s.enterInterrupt).response = s.response := rfl
@[simp] theorem State.enterInterrupt_hostTrace (s : State) : (s.enterInterrupt).hostTrace = s.hostTrace := rfl
@[simp] theorem State.enterInterrupt_commands (s : State) : (s.enterInterrupt).commands = s.commands := rfl
@[simp] theorem State.enterInterrupt_onward (s : State) : (s.enterInterrupt).onward = s.onward := rfl
@[simp] theorem State.enterInterrupt_schedule (s : State) : (s.enterInterrupt).schedule = s.schedule := rfl
@[simp] theorem State.enterInterrupt_turn (s : State) : (s.enterInterrupt).turn = s.turn := rfl
@[simp] theorem State.enterInterrupt_drawn (s : State) : (s.enterInterrupt).drawn = s.drawn := rfl

/-! ### `State.leaveInterrupt` -/

@[simp] theorem State.leaveInterrupt_params (s : State) : (s.leaveInterrupt).params = s.params := rfl
@[simp] theorem State.leaveInterrupt_chans (s : State) : (s.leaveInterrupt).chans = s.chans := rfl
@[simp] theorem State.leaveInterrupt_timeUs (s : State) : (s.leaveInterrupt).timeUs = s.timeUs := rfl
@[simp] theorem State.leaveInterrupt_gerr (s : State) : (s.leaveInterrupt).gerr = s.gerr := rfl
@[simp] theorem State.leaveInterrupt_context (s : State) : (s.leaveInterrupt).context = .host := rfl
@[simp] theorem State.leaveInterrupt_response (s : State) : (s.leaveInterrupt).response = s.response := rfl
@[simp] theorem State.leaveInterrupt_hostTrace (s : State) : (s.leaveInterrupt).hostTrace = s.hostTrace := rfl
@[simp] theorem State.leaveInterrupt_commands (s : State) : (s.leaveInterrupt).commands = s.commands := rfl
@[simp] theorem State.leaveInterrupt_onward (s : State) : (s.leaveInterrupt).onward = s.onward := rfl
@[simp] theorem State.leaveInterrupt_schedule (s : State) : (s.leaveInterrupt).schedule = s.schedule := rfl
@[simp] theorem State.leaveInterrupt_turn (s : State) : (s.leaveInterrupt).turn = s.turn := rfl
@[simp] theorem State.leaveInterrupt_drawn (s : State) : (s.leaveInterrupt).drawn = s.drawn := rfl

/-! ### `State.illegal` -/

@[simp] theorem State.illegal_params (s : State) : (s.illegal).params = s.params := rfl
@[simp] theorem State.illegal_chans (s : State) : (s.illegal).chans = s.chans := rfl
@[simp] theorem State.illegal_timeUs (s : State) : (s.illegal).timeUs = s.timeUs := rfl
@[simp] theorem State.illegal_gerr (s : State) : (s.illegal).gerr = s.gerr ||| gerrIllegal := rfl
@[simp] theorem State.illegal_context (s : State) : (s.illegal).context = s.context := rfl
@[simp] theorem State.illegal_response (s : State) : (s.illegal).response = some ⟨.illegal, 0⟩ := rfl
@[simp] theorem State.illegal_hostTrace (s : State) : (s.illegal).hostTrace = s.hostTrace := rfl
@[simp] theorem State.illegal_commands (s : State) : (s.illegal).commands = s.commands := rfl
@[simp] theorem State.illegal_onward (s : State) : (s.illegal).onward = s.onward := rfl
@[simp] theorem State.illegal_schedule (s : State) : (s.illegal).schedule = s.schedule := rfl
@[simp] theorem State.illegal_turn (s : State) : (s.illegal).turn = s.turn := rfl
@[simp] theorem State.illegal_drawn (s : State) : (s.illegal).drawn = s.drawn := rfl

/-! ### `State.contextRefused` -/

@[simp] theorem State.contextRefused_params (s : State) : (s.contextRefused).params = s.params := rfl
@[simp] theorem State.contextRefused_chans (s : State) : (s.contextRefused).chans = s.chans := rfl
@[simp] theorem State.contextRefused_timeUs (s : State) : (s.contextRefused).timeUs = s.timeUs := rfl
@[simp] theorem State.contextRefused_gerr (s : State) : (s.contextRefused).gerr = s.gerr ||| gerrContext := rfl
@[simp] theorem State.contextRefused_context (s : State) : (s.contextRefused).context = s.context := rfl
@[simp] theorem State.contextRefused_response (s : State) : (s.contextRefused).response = some ⟨.context, 0⟩ := rfl
@[simp] theorem State.contextRefused_hostTrace (s : State) : (s.contextRefused).hostTrace = s.hostTrace := rfl
@[simp] theorem State.contextRefused_commands (s : State) : (s.contextRefused).commands = s.commands := rfl
@[simp] theorem State.contextRefused_onward (s : State) : (s.contextRefused).onward = s.onward := rfl
@[simp] theorem State.contextRefused_schedule (s : State) : (s.contextRefused).schedule = s.schedule := rfl
@[simp] theorem State.contextRefused_turn (s : State) : (s.contextRefused).turn = s.turn := rfl
@[simp] theorem State.contextRefused_drawn (s : State) : (s.contextRefused).drawn = s.drawn := rfl

/-! ### `State.rejectBusy` -/

@[simp] theorem State.rejectBusy_params (s : State) (ch : ChanId) : (s.rejectBusy ch).params = s.params := rfl
@[simp] theorem State.rejectBusy_chans (s : State) (ch : ChanId) : (s.rejectBusy ch).chans = s.chans.set ch.toNat { s.chan ch with err := (s.chan ch).err ||| errPrecond } := rfl
@[simp] theorem State.rejectBusy_timeUs (s : State) (ch : ChanId) : (s.rejectBusy ch).timeUs = s.timeUs := rfl
@[simp] theorem State.rejectBusy_gerr (s : State) (ch : ChanId) : (s.rejectBusy ch).gerr = s.gerr := rfl
@[simp] theorem State.rejectBusy_context (s : State) (ch : ChanId) : (s.rejectBusy ch).context = s.context := rfl
@[simp] theorem State.rejectBusy_response (s : State) (ch : ChanId) : (s.rejectBusy ch).response = some ⟨.rejectBusy, 0⟩ := rfl
@[simp] theorem State.rejectBusy_hostTrace (s : State) (ch : ChanId) : (s.rejectBusy ch).hostTrace = s.hostTrace := rfl
@[simp] theorem State.rejectBusy_commands (s : State) (ch : ChanId) : (s.rejectBusy ch).commands = s.commands := rfl
@[simp] theorem State.rejectBusy_onward (s : State) (ch : ChanId) : (s.rejectBusy ch).onward = s.onward := rfl
@[simp] theorem State.rejectBusy_schedule (s : State) (ch : ChanId) : (s.rejectBusy ch).schedule = s.schedule := rfl
@[simp] theorem State.rejectBusy_turn (s : State) (ch : ChanId) : (s.rejectBusy ch).turn = s.turn := rfl
@[simp] theorem State.rejectBusy_drawn (s : State) (ch : ChanId) : (s.rejectBusy ch).drawn = s.drawn := rfl

/-! ### `clockTick` -/

@[simp] theorem clockTick_params (s : State) : (clockTick s).params = s.params := rfl
@[simp] theorem clockTick_chans (s : State) : (clockTick s).chans = s.chans := rfl
@[simp] theorem clockTick_timeUs (s : State) : (clockTick s).timeUs = s.timeUs + 1 := rfl
@[simp] theorem clockTick_gerr (s : State) : (clockTick s).gerr = s.gerr := rfl
@[simp] theorem clockTick_context (s : State) : (clockTick s).context = s.context := rfl
@[simp] theorem clockTick_response (s : State) : (clockTick s).response = s.response := rfl
@[simp] theorem clockTick_hostTrace (s : State) : (clockTick s).hostTrace = s.hostTrace := rfl
@[simp] theorem clockTick_commands (s : State) : (clockTick s).commands = s.commands := rfl
@[simp] theorem clockTick_onward (s : State) : (clockTick s).onward = s.onward := rfl
@[simp] theorem clockTick_schedule (s : State) : (clockTick s).schedule = s.schedule := rfl
@[simp] theorem clockTick_turn (s : State) : (clockTick s).turn = s.turn := rfl
@[simp] theorem clockTick_drawn (s : State) : (clockTick s).drawn = s.drawn := rfl

/-! ### `placeCommand` -/

@[simp] theorem placeCommand_params (s : State) (w0 w1 : Word) : (placeCommand s w0 w1).params = s.params := rfl
@[simp] theorem placeCommand_chans (s : State) (w0 w1 : Word) : (placeCommand s w0 w1).chans = s.chans := rfl
@[simp] theorem placeCommand_timeUs (s : State) (w0 w1 : Word) : (placeCommand s w0 w1).timeUs = s.timeUs := rfl
@[simp] theorem placeCommand_gerr (s : State) (w0 w1 : Word) : (placeCommand s w0 w1).gerr = s.gerr := rfl
@[simp] theorem placeCommand_context (s : State) (w0 w1 : Word) : (placeCommand s w0 w1).context = s.context := rfl
@[simp] theorem placeCommand_response (s : State) (w0 w1 : Word) : (placeCommand s w0 w1).response = s.response := rfl
@[simp] theorem placeCommand_hostTrace (s : State) (w0 w1 : Word) : (placeCommand s w0 w1).hostTrace = s.hostTrace := rfl
@[simp] theorem placeCommand_commands (s : State) (w0 w1 : Word) : (placeCommand s w0 w1).commands = (w0, w1) :: s.commands := rfl
@[simp] theorem placeCommand_onward (s : State) (w0 w1 : Word) : (placeCommand s w0 w1).onward = s.onward := rfl
@[simp] theorem placeCommand_schedule (s : State) (w0 w1 : Word) : (placeCommand s w0 w1).schedule = .host :: s.schedule := rfl
@[simp] theorem placeCommand_turn (s : State) (w0 w1 : Word) : (placeCommand s w0 w1).turn = s.turn := rfl
@[simp] theorem placeCommand_drawn (s : State) (w0 w1 : Word) : (placeCommand s w0 w1).drawn = s.drawn := rfl

/-! ## Updates of a channel -/

/-! ### `unbind` -/

@[simp] theorem unbind_cfg (c : Chan) : (unbind c).cfg = c.cfg := rfl
@[simp] theorem unbind_state (c : Chan) : (unbind c).state = c.state := rfl
@[simp] theorem unbind_bound (c : Chan) : (unbind c).bound = false := rfl
@[simp] theorem unbind_baud (c : Chan) : (unbind c).baud = c.baud := rfl
@[simp] theorem unbind_minFrameUs (c : Chan) : (unbind c).minFrameUs = c.minFrameUs := rfl
@[simp] theorem unbind_width (c : Chan) : (unbind c).width = c.width := rfl
@[simp] theorem unbind_tset (c : Chan) : (unbind c).tset = c.tset := rfl
@[simp] theorem unbind_built (c : Chan) : (unbind c).built = c.built := rfl
@[simp] theorem unbind_table (c : Chan) : (unbind c).table = c.table := rfl
@[simp] theorem unbind_curOffset (c : Chan) : (unbind c).curOffset = c.curOffset := rfl
@[simp] theorem unbind_curBits (c : Chan) : (unbind c).curBits = c.curBits := rfl
@[simp] theorem unbind_curActive (c : Chan) : (unbind c).curActive = c.curActive := rfl
@[simp] theorem unbind_lastStartUs (c : Chan) : (unbind c).lastStartUs = c.lastStartUs := rfl
@[simp] theorem unbind_started (c : Chan) : (unbind c).started = c.started := rfl
@[simp] theorem unbind_intEn (c : Chan) : (unbind c).intEn = false := rfl
@[simp] theorem unbind_fifo (c : Chan) : (unbind c).fifo = [] := rfl
@[simp] theorem unbind_ptq (c : Chan) : (unbind c).ptq = [] := rfl
@[simp] theorem unbind_line (c : Chan) : (unbind c).line = c.line := rfl
@[simp] theorem unbind_ptTrace (c : Chan) : (unbind c).ptTrace = c.ptTrace := rfl
@[simp] theorem unbind_uartTrace (c : Chan) : (unbind c).uartTrace = c.uartTrace := rfl
@[simp] theorem unbind_framesStarted (c : Chan) : (unbind c).framesStarted = c.framesStarted := rfl
@[simp] theorem unbind_framesDone (c : Chan) : (unbind c).framesDone = c.framesDone := rfl
@[simp] theorem unbind_err (c : Chan) : (unbind c).err = c.err := rfl
@[simp] theorem unbind_ibuf (c : Chan) : (unbind c).ibuf = c.ibuf := rfl

/-! ### `emitPt` -/

@[simp] theorem emitPt_cfg (c : Chan) (e : PtEvent) : (emitPt c e).cfg = c.cfg := rfl
@[simp] theorem emitPt_state (c : Chan) (e : PtEvent) : (emitPt c e).state = c.state := rfl
@[simp] theorem emitPt_bound (c : Chan) (e : PtEvent) : (emitPt c e).bound = c.bound := rfl
@[simp] theorem emitPt_baud (c : Chan) (e : PtEvent) : (emitPt c e).baud = c.baud := rfl
@[simp] theorem emitPt_minFrameUs (c : Chan) (e : PtEvent) : (emitPt c e).minFrameUs = c.minFrameUs := rfl
@[simp] theorem emitPt_width (c : Chan) (e : PtEvent) : (emitPt c e).width = c.width := rfl
@[simp] theorem emitPt_tset (c : Chan) (e : PtEvent) : (emitPt c e).tset = c.tset := rfl
@[simp] theorem emitPt_built (c : Chan) (e : PtEvent) : (emitPt c e).built = c.built := rfl
@[simp] theorem emitPt_table (c : Chan) (e : PtEvent) : (emitPt c e).table = c.table := rfl
@[simp] theorem emitPt_curOffset (c : Chan) (e : PtEvent) : (emitPt c e).curOffset = c.curOffset := rfl
@[simp] theorem emitPt_curBits (c : Chan) (e : PtEvent) : (emitPt c e).curBits = c.curBits := rfl
@[simp] theorem emitPt_curActive (c : Chan) (e : PtEvent) : (emitPt c e).curActive = c.curActive := rfl
@[simp] theorem emitPt_lastStartUs (c : Chan) (e : PtEvent) : (emitPt c e).lastStartUs = c.lastStartUs := rfl
@[simp] theorem emitPt_started (c : Chan) (e : PtEvent) : (emitPt c e).started = c.started := rfl
@[simp] theorem emitPt_intEn (c : Chan) (e : PtEvent) : (emitPt c e).intEn = c.intEn := rfl
@[simp] theorem emitPt_fifo (c : Chan) (e : PtEvent) : (emitPt c e).fifo = c.fifo := rfl
@[simp] theorem emitPt_ptq (c : Chan) (e : PtEvent) : (emitPt c e).ptq = c.ptq := rfl
@[simp] theorem emitPt_line (c : Chan) (e : PtEvent) : (emitPt c e).line = c.line := rfl
@[simp] theorem emitPt_ptTrace (c : Chan) (e : PtEvent) : (emitPt c e).ptTrace = c.ptTrace ++ [e] := rfl
@[simp] theorem emitPt_uartTrace (c : Chan) (e : PtEvent) : (emitPt c e).uartTrace = c.uartTrace := rfl
@[simp] theorem emitPt_framesStarted (c : Chan) (e : PtEvent) : (emitPt c e).framesStarted = c.framesStarted := rfl
@[simp] theorem emitPt_framesDone (c : Chan) (e : PtEvent) : (emitPt c e).framesDone = c.framesDone := rfl
@[simp] theorem emitPt_err (c : Chan) (e : PtEvent) : (emitPt c e).err = c.err := rfl
@[simp] theorem emitPt_ibuf (c : Chan) (e : PtEvent) : (emitPt c e).ibuf = c.ibuf := rfl

/-! ### `emitUart` -/

@[simp] theorem emitUart_cfg (c : Chan) (e : UartEvent) : (emitUart c e).cfg = c.cfg := rfl
@[simp] theorem emitUart_state (c : Chan) (e : UartEvent) : (emitUart c e).state = c.state := rfl
@[simp] theorem emitUart_bound (c : Chan) (e : UartEvent) : (emitUart c e).bound = c.bound := rfl
@[simp] theorem emitUart_baud (c : Chan) (e : UartEvent) : (emitUart c e).baud = c.baud := rfl
@[simp] theorem emitUart_minFrameUs (c : Chan) (e : UartEvent) : (emitUart c e).minFrameUs = c.minFrameUs := rfl
@[simp] theorem emitUart_width (c : Chan) (e : UartEvent) : (emitUart c e).width = c.width := rfl
@[simp] theorem emitUart_tset (c : Chan) (e : UartEvent) : (emitUart c e).tset = c.tset := rfl
@[simp] theorem emitUart_built (c : Chan) (e : UartEvent) : (emitUart c e).built = c.built := rfl
@[simp] theorem emitUart_table (c : Chan) (e : UartEvent) : (emitUart c e).table = c.table := rfl
@[simp] theorem emitUart_curOffset (c : Chan) (e : UartEvent) : (emitUart c e).curOffset = c.curOffset := rfl
@[simp] theorem emitUart_curBits (c : Chan) (e : UartEvent) : (emitUart c e).curBits = c.curBits := rfl
@[simp] theorem emitUart_curActive (c : Chan) (e : UartEvent) : (emitUart c e).curActive = c.curActive := rfl
@[simp] theorem emitUart_lastStartUs (c : Chan) (e : UartEvent) : (emitUart c e).lastStartUs = c.lastStartUs := rfl
@[simp] theorem emitUart_started (c : Chan) (e : UartEvent) : (emitUart c e).started = c.started := rfl
@[simp] theorem emitUart_intEn (c : Chan) (e : UartEvent) : (emitUart c e).intEn = c.intEn := rfl
@[simp] theorem emitUart_fifo (c : Chan) (e : UartEvent) : (emitUart c e).fifo = c.fifo := rfl
@[simp] theorem emitUart_ptq (c : Chan) (e : UartEvent) : (emitUart c e).ptq = c.ptq := rfl
@[simp] theorem emitUart_line (c : Chan) (e : UartEvent) : (emitUart c e).line = c.line := rfl
@[simp] theorem emitUart_ptTrace (c : Chan) (e : UartEvent) : (emitUart c e).ptTrace = c.ptTrace := rfl
@[simp] theorem emitUart_uartTrace (c : Chan) (e : UartEvent) : (emitUart c e).uartTrace = c.uartTrace ++ [e] := rfl
@[simp] theorem emitUart_framesStarted (c : Chan) (e : UartEvent) : (emitUart c e).framesStarted = c.framesStarted := rfl
@[simp] theorem emitUart_framesDone (c : Chan) (e : UartEvent) : (emitUart c e).framesDone = c.framesDone := rfl
@[simp] theorem emitUart_err (c : Chan) (e : UartEvent) : (emitUart c e).err = c.err := rfl
@[simp] theorem emitUart_ibuf (c : Chan) (e : UartEvent) : (emitUart c e).ibuf = c.ibuf := rfl

/-! ### `pumpStart` -/

@[simp] theorem pumpStart_cfg (c : Chan) : (pumpStart c).cfg = c.cfg := rfl
@[simp] theorem pumpStart_state (c : Chan) : (pumpStart c).state = c.state := rfl
@[simp] theorem pumpStart_bound (c : Chan) : (pumpStart c).bound = c.bound := rfl
@[simp] theorem pumpStart_baud (c : Chan) : (pumpStart c).baud = c.baud := rfl
@[simp] theorem pumpStart_minFrameUs (c : Chan) : (pumpStart c).minFrameUs = c.minFrameUs := rfl
@[simp] theorem pumpStart_width (c : Chan) : (pumpStart c).width = c.width := rfl
@[simp] theorem pumpStart_tset (c : Chan) : (pumpStart c).tset = c.tset := rfl
@[simp] theorem pumpStart_built (c : Chan) : (pumpStart c).built = c.built := rfl
@[simp] theorem pumpStart_table (c : Chan) : (pumpStart c).table = c.table := rfl
@[simp] theorem pumpStart_curOffset (c : Chan) : (pumpStart c).curOffset = 0 := rfl
@[simp] theorem pumpStart_curBits (c : Chan) : (pumpStart c).curBits = 0 := rfl
@[simp] theorem pumpStart_curActive (c : Chan) : (pumpStart c).curActive = c.curActive := rfl
@[simp] theorem pumpStart_lastStartUs (c : Chan) : (pumpStart c).lastStartUs = c.lastStartUs := rfl
@[simp] theorem pumpStart_started (c : Chan) : (pumpStart c).started = c.started := rfl
@[simp] theorem pumpStart_intEn (c : Chan) : (pumpStart c).intEn = c.intEn := rfl
@[simp] theorem pumpStart_fifo (c : Chan) : (pumpStart c).fifo = c.fifo := rfl
@[simp] theorem pumpStart_ptq (c : Chan) : (pumpStart c).ptq = c.ptq := rfl
@[simp] theorem pumpStart_line (c : Chan) : (pumpStart c).line = c.line := rfl
@[simp] theorem pumpStart_ptTrace (c : Chan) : (pumpStart c).ptTrace = c.ptTrace := rfl
@[simp] theorem pumpStart_uartTrace (c : Chan) : (pumpStart c).uartTrace = c.uartTrace := rfl
@[simp] theorem pumpStart_framesStarted (c : Chan) : (pumpStart c).framesStarted = c.framesStarted := rfl
@[simp] theorem pumpStart_framesDone (c : Chan) : (pumpStart c).framesDone = c.framesDone := rfl
@[simp] theorem pumpStart_err (c : Chan) : (pumpStart c).err = c.err := rfl
@[simp] theorem pumpStart_ibuf (c : Chan) : (pumpStart c).ibuf = c.ibuf := rfl

/-! ### `pacerRecord` -/

@[simp] theorem pacerRecord_cfg (now : Word) (c : Chan) : (pacerRecord now c).cfg = c.cfg := rfl
@[simp] theorem pacerRecord_state (now : Word) (c : Chan) : (pacerRecord now c).state = c.state := rfl
@[simp] theorem pacerRecord_bound (now : Word) (c : Chan) : (pacerRecord now c).bound = c.bound := rfl
@[simp] theorem pacerRecord_baud (now : Word) (c : Chan) : (pacerRecord now c).baud = c.baud := rfl
@[simp] theorem pacerRecord_minFrameUs (now : Word) (c : Chan) : (pacerRecord now c).minFrameUs = c.minFrameUs := rfl
@[simp] theorem pacerRecord_width (now : Word) (c : Chan) : (pacerRecord now c).width = c.width := rfl
@[simp] theorem pacerRecord_tset (now : Word) (c : Chan) : (pacerRecord now c).tset = c.tset := rfl
@[simp] theorem pacerRecord_built (now : Word) (c : Chan) : (pacerRecord now c).built = c.built := rfl
@[simp] theorem pacerRecord_table (now : Word) (c : Chan) : (pacerRecord now c).table = c.table := rfl
@[simp] theorem pacerRecord_curOffset (now : Word) (c : Chan) : (pacerRecord now c).curOffset = c.curOffset := rfl
@[simp] theorem pacerRecord_curBits (now : Word) (c : Chan) : (pacerRecord now c).curBits = c.curBits := rfl
@[simp] theorem pacerRecord_curActive (now : Word) (c : Chan) : (pacerRecord now c).curActive = c.curActive := rfl
@[simp] theorem pacerRecord_lastStartUs (now : Word) (c : Chan) : (pacerRecord now c).lastStartUs = now := rfl
@[simp] theorem pacerRecord_started (now : Word) (c : Chan) : (pacerRecord now c).started = true := rfl
@[simp] theorem pacerRecord_intEn (now : Word) (c : Chan) : (pacerRecord now c).intEn = c.intEn := rfl
@[simp] theorem pacerRecord_fifo (now : Word) (c : Chan) : (pacerRecord now c).fifo = c.fifo := rfl
@[simp] theorem pacerRecord_ptq (now : Word) (c : Chan) : (pacerRecord now c).ptq = c.ptq := rfl
@[simp] theorem pacerRecord_line (now : Word) (c : Chan) : (pacerRecord now c).line = c.line := rfl
@[simp] theorem pacerRecord_ptTrace (now : Word) (c : Chan) : (pacerRecord now c).ptTrace = c.ptTrace := rfl
@[simp] theorem pacerRecord_uartTrace (now : Word) (c : Chan) : (pacerRecord now c).uartTrace = c.uartTrace := rfl
@[simp] theorem pacerRecord_framesStarted (now : Word) (c : Chan) : (pacerRecord now c).framesStarted = c.framesStarted := rfl
@[simp] theorem pacerRecord_framesDone (now : Word) (c : Chan) : (pacerRecord now c).framesDone = c.framesDone := rfl
@[simp] theorem pacerRecord_err (now : Word) (c : Chan) : (pacerRecord now c).err = c.err := rfl
@[simp] theorem pacerRecord_ibuf (now : Word) (c : Chan) : (pacerRecord now c).ibuf = c.ibuf := rfl

/-! ### `countStart` -/

@[simp] theorem countStart_cfg (now : Word) (c : Chan) : (countStart now c).cfg = c.cfg := rfl
@[simp] theorem countStart_state (now : Word) (c : Chan) : (countStart now c).state = c.state := rfl
@[simp] theorem countStart_bound (now : Word) (c : Chan) : (countStart now c).bound = c.bound := rfl
@[simp] theorem countStart_baud (now : Word) (c : Chan) : (countStart now c).baud = c.baud := rfl
@[simp] theorem countStart_minFrameUs (now : Word) (c : Chan) : (countStart now c).minFrameUs = c.minFrameUs := rfl
@[simp] theorem countStart_width (now : Word) (c : Chan) : (countStart now c).width = c.width := rfl
@[simp] theorem countStart_tset (now : Word) (c : Chan) : (countStart now c).tset = c.tset := rfl
@[simp] theorem countStart_built (now : Word) (c : Chan) : (countStart now c).built = c.built := rfl
@[simp] theorem countStart_table (now : Word) (c : Chan) : (countStart now c).table = c.table := rfl
@[simp] theorem countStart_curOffset (now : Word) (c : Chan) : (countStart now c).curOffset = c.curOffset := rfl
@[simp] theorem countStart_curBits (now : Word) (c : Chan) : (countStart now c).curBits = c.curBits := rfl
@[simp] theorem countStart_curActive (now : Word) (c : Chan) : (countStart now c).curActive = c.curActive := rfl
@[simp] theorem countStart_lastStartUs (now : Word) (c : Chan) : (countStart now c).lastStartUs = now := rfl
@[simp] theorem countStart_started (now : Word) (c : Chan) : (countStart now c).started = true := rfl
@[simp] theorem countStart_intEn (now : Word) (c : Chan) : (countStart now c).intEn = c.intEn := rfl
@[simp] theorem countStart_fifo (now : Word) (c : Chan) : (countStart now c).fifo = c.fifo := rfl
@[simp] theorem countStart_ptq (now : Word) (c : Chan) : (countStart now c).ptq = c.ptq := rfl
@[simp] theorem countStart_line (now : Word) (c : Chan) : (countStart now c).line = c.line := rfl
@[simp] theorem countStart_ptTrace (now : Word) (c : Chan) : (countStart now c).ptTrace = c.ptTrace := rfl
@[simp] theorem countStart_uartTrace (now : Word) (c : Chan) : (countStart now c).uartTrace = c.uartTrace := rfl
@[simp] theorem countStart_framesStarted (now : Word) (c : Chan) : (countStart now c).framesStarted = c.framesStarted + 1 := rfl
@[simp] theorem countStart_framesDone (now : Word) (c : Chan) : (countStart now c).framesDone = c.framesDone := rfl
@[simp] theorem countStart_err (now : Word) (c : Chan) : (countStart now c).err = c.err := rfl
@[simp] theorem countStart_ibuf (now : Word) (c : Chan) : (countStart now c).ibuf = c.ibuf := rfl

/-! ### `finishPulseFrame` -/

@[simp] theorem finishPulseFrame_cfg (c : Chan) : (finishPulseFrame c).cfg = c.cfg := rfl
@[simp] theorem finishPulseFrame_state (c : Chan) : (finishPulseFrame c).state = .idle := rfl
@[simp] theorem finishPulseFrame_bound (c : Chan) : (finishPulseFrame c).bound = c.bound := rfl
@[simp] theorem finishPulseFrame_baud (c : Chan) : (finishPulseFrame c).baud = c.baud := rfl
@[simp] theorem finishPulseFrame_minFrameUs (c : Chan) : (finishPulseFrame c).minFrameUs = c.minFrameUs := rfl
@[simp] theorem finishPulseFrame_width (c : Chan) : (finishPulseFrame c).width = c.width := rfl
@[simp] theorem finishPulseFrame_tset (c : Chan) : (finishPulseFrame c).tset = c.tset := rfl
@[simp] theorem finishPulseFrame_built (c : Chan) : (finishPulseFrame c).built = c.built := rfl
@[simp] theorem finishPulseFrame_table (c : Chan) : (finishPulseFrame c).table = c.table := rfl
@[simp] theorem finishPulseFrame_curOffset (c : Chan) : (finishPulseFrame c).curOffset = c.curOffset := rfl
@[simp] theorem finishPulseFrame_curBits (c : Chan) : (finishPulseFrame c).curBits = c.curBits := rfl
@[simp] theorem finishPulseFrame_curActive (c : Chan) : (finishPulseFrame c).curActive = false := rfl
@[simp] theorem finishPulseFrame_lastStartUs (c : Chan) : (finishPulseFrame c).lastStartUs = c.lastStartUs := rfl
@[simp] theorem finishPulseFrame_started (c : Chan) : (finishPulseFrame c).started = c.started := rfl
@[simp] theorem finishPulseFrame_intEn (c : Chan) : (finishPulseFrame c).intEn = c.intEn := rfl
@[simp] theorem finishPulseFrame_fifo (c : Chan) : (finishPulseFrame c).fifo = c.fifo := rfl
@[simp] theorem finishPulseFrame_ptq (c : Chan) : (finishPulseFrame c).ptq = c.ptq := rfl
@[simp] theorem finishPulseFrame_line (c : Chan) : (finishPulseFrame c).line = c.cfg.idleLevel := rfl
@[simp] theorem finishPulseFrame_ptTrace (c : Chan) : (finishPulseFrame c).ptTrace = c.ptTrace := rfl
@[simp] theorem finishPulseFrame_uartTrace (c : Chan) : (finishPulseFrame c).uartTrace = c.uartTrace := rfl
@[simp] theorem finishPulseFrame_framesStarted (c : Chan) : (finishPulseFrame c).framesStarted = c.framesStarted := rfl
@[simp] theorem finishPulseFrame_framesDone (c : Chan) : (finishPulseFrame c).framesDone = c.framesDone + 1 := rfl
@[simp] theorem finishPulseFrame_err (c : Chan) : (finishPulseFrame c).err = c.err := rfl
@[simp] theorem finishPulseFrame_ibuf (c : Chan) : (finishPulseFrame c).ibuf = c.ibuf := rfl

/-! ### `finishByteFrame` -/

@[simp] theorem finishByteFrame_cfg (c : Chan) : (finishByteFrame c).cfg = c.cfg := rfl
@[simp] theorem finishByteFrame_state (c : Chan) : (finishByteFrame c).state = .idle := rfl
@[simp] theorem finishByteFrame_bound (c : Chan) : (finishByteFrame c).bound = c.bound := rfl
@[simp] theorem finishByteFrame_baud (c : Chan) : (finishByteFrame c).baud = c.baud := rfl
@[simp] theorem finishByteFrame_minFrameUs (c : Chan) : (finishByteFrame c).minFrameUs = c.minFrameUs := rfl
@[simp] theorem finishByteFrame_width (c : Chan) : (finishByteFrame c).width = c.width := rfl
@[simp] theorem finishByteFrame_tset (c : Chan) : (finishByteFrame c).tset = c.tset := rfl
@[simp] theorem finishByteFrame_built (c : Chan) : (finishByteFrame c).built = c.built := rfl
@[simp] theorem finishByteFrame_table (c : Chan) : (finishByteFrame c).table = c.table := rfl
@[simp] theorem finishByteFrame_curOffset (c : Chan) : (finishByteFrame c).curOffset = c.curOffset := rfl
@[simp] theorem finishByteFrame_curBits (c : Chan) : (finishByteFrame c).curBits = c.curBits := rfl
@[simp] theorem finishByteFrame_curActive (c : Chan) : (finishByteFrame c).curActive = false := rfl
@[simp] theorem finishByteFrame_lastStartUs (c : Chan) : (finishByteFrame c).lastStartUs = c.lastStartUs := rfl
@[simp] theorem finishByteFrame_started (c : Chan) : (finishByteFrame c).started = c.started := rfl
@[simp] theorem finishByteFrame_intEn (c : Chan) : (finishByteFrame c).intEn = false := rfl
@[simp] theorem finishByteFrame_fifo (c : Chan) : (finishByteFrame c).fifo = c.fifo := rfl
@[simp] theorem finishByteFrame_ptq (c : Chan) : (finishByteFrame c).ptq = c.ptq := rfl
@[simp] theorem finishByteFrame_line (c : Chan) : (finishByteFrame c).line = c.line := rfl
@[simp] theorem finishByteFrame_ptTrace (c : Chan) : (finishByteFrame c).ptTrace = c.ptTrace := rfl
@[simp] theorem finishByteFrame_uartTrace (c : Chan) : (finishByteFrame c).uartTrace = c.uartTrace := rfl
@[simp] theorem finishByteFrame_framesStarted (c : Chan) : (finishByteFrame c).framesStarted = c.framesStarted := rfl
@[simp] theorem finishByteFrame_framesDone (c : Chan) : (finishByteFrame c).framesDone = c.framesDone + 1 := rfl
@[simp] theorem finishByteFrame_err (c : Chan) : (finishByteFrame c).err = c.err := rfl
@[simp] theorem finishByteFrame_ibuf (c : Chan) : (finishByteFrame c).ibuf = c.ibuf := rfl

end Sys2Proof.Machine
end

