-- ==== Sys2Proof/Laws/Memory.lean ====
section
/-! SUPPORT. The intensity-buffer memory: what a read gives after a write, and that every memory operation keeps the
canonical form. -/
namespace Sys2Proof.Machine

open Sys2Proof

/-- A read of the byte just written. -/
theorem memFind_memPut_same (m : List Host.Cell) (a : Nat) (v : Byte) : memFind (memPut m a v) a = some v := by
  induction m with
  | nil => simp [memPut, memFind]
  | cons x rest ih =>
    obtain ⟨b, w⟩ := x
    unfold memPut
    split
    · simp [memFind]
    · split
      · simp [memFind]
      · simp [memFind, *]

/-- A write leaves every other address alone. -/
theorem memFind_memPut_other (m : List Host.Cell) {a o : Nat} (v : Byte) (h : o ≠ a) :
    memFind (memPut m a v) o = memFind m o := by
  induction m with
  | nil => simp [memPut, memFind, h]
  | cons x rest ih =>
    obtain ⟨b, w⟩ := x
    unfold memPut
    split
    · subst_vars; simp [memFind, h]
    · split
      · simp only [memFind, h, if_false]
        split <;> split <;> first | rfl | omega | skip
        all_goals split <;> first | rfl | omega
      · simp only [memFind, ih]

/-- The first address of a list that a write has gone into. -/
theorem memPut_head_lt {b a : Nat} (h : b < a) (m : List Host.Cell) (v : Byte)
    (hm : ∀ x ∈ m.head?, b < x.1) : ∀ x ∈ (memPut m a v).head?, b < x.1 := by
  cases m with
  | nil => simp [memPut, h]
  | cons y rest =>
    obtain ⟨c, w⟩ := y
    have hc : b < c := hm (c, w) rfl
    unfold memPut
    split
    · simpa using h
    · split
      · simpa using h
      · simpa using hc

/-- The canonical form of a list, by its head and its tail. -/
theorem memWf_cons (x : Host.Cell) (m : List Host.Cell) :
    memWf (x :: m) = true ↔ (∀ y ∈ m.head?, x.1 < y.1) ∧ memWf m = true := by
  cases m with
  | nil => simp [memWf]
  | cons y rest => simp [memWf]

/-- A write keeps the canonical form. -/
theorem memWf_memPut (m : List Host.Cell) (a : Nat) (v : Byte) (h : memWf m = true) : memWf (memPut m a v) = true := by
  induction m with
  | nil => simp [memPut, memWf]
  | cons x rest ih =>
    obtain ⟨b, w⟩ := x
    obtain ⟨hb, hr⟩ := (memWf_cons _ _).1 h
    unfold memPut
    split
    · subst_vars; exact (memWf_cons _ _).2 ⟨hb, hr⟩
    · split
      · exact (memWf_cons _ _).2 ⟨by simpa, h⟩
      · exact (memWf_cons _ _).2 ⟨memPut_head_lt (by omega) rest v hb, ih hr⟩

/-- An address below the head of a canonical list is not listed. -/
theorem memFind_none_of_lt {m : List Host.Cell} {a : Nat} (h : ∀ x ∈ m.head?, a < x.1) : memFind m a = none := by
  cases m with
  | nil => rfl
  | cons x rest =>
    have hx : a < x.1 := h x rfl
    obtain ⟨b, w⟩ := x
    simp only at hx
    simp [memFind, hx, Nat.ne_of_lt hx]

/-- Canonical lists that read alike at every address are the same list. -/
theorem mem_ext {m n : List Host.Cell} (hm : memWf m = true) (hn : memWf n = true)
    (h : ∀ a, memFind m a = memFind n a) : m = n := by
  induction m generalizing n with
  | nil =>
    cases n with
    | nil => rfl
    | cons y n => obtain ⟨c, v⟩ := y; simpa [memFind] using h c
  | cons x m ih =>
    obtain ⟨b, w⟩ := x
    obtain ⟨hb, hm'⟩ := (memWf_cons _ _).1 hm
    cases n with
    | nil => simpa [memFind] using h b
    | cons y n =>
      obtain ⟨c, v⟩ := y
      obtain ⟨hc, hn'⟩ := (memWf_cons _ _).1 hn
      have hbc : b = c := by
        rcases Nat.lt_trichotomy b c with hlt | heq | hgt
        · simpa [memFind, hlt, Nat.ne_of_lt hlt] using h b
        · exact heq
        · simpa [memFind, hgt, Nat.ne_of_lt hgt] using h c
      subst hbc
      have hwv : w = v := by simpa [memFind] using h b
      subst hwv
      congr 1
      refine ih hm' hn' fun a => ?_
      rcases Nat.lt_trichotomy a b with hlt | heq | hgt
      · rw [memFind_none_of_lt fun y hy => Nat.lt_trans hlt (hb y hy),
          memFind_none_of_lt fun y hy => Nat.lt_trans hlt (hc y hy)]
      · subst heq; rw [memFind_none_of_lt hb, memFind_none_of_lt hc]
      · simpa [memFind, Nat.ne_of_gt hgt, Nat.not_lt_of_gt hgt] using h a

/-- What a write to the RAM gives, if it does not fault. -/
theorem memWrite_ok {p : Params} {c c' : Chan} {a : Nat} {v : Byte} (h : memWrite p c a v = .ok c') :
    a < p.bufMax ∧ c' = { c with ibuf := memPut c.ibuf a v } := by
  unfold memWrite at h
  split at h
  · exact ⟨‹_›, (Except.ok.inj h).symm⟩
  · cases h

/-- What a read of the RAM gives, if it does not fault. -/
theorem memRead_ok {p : Params} {ch : ChanId} {c : Chan} {a : Nat} {v : Byte} (h : memRead p ch c a = .ok v) :
    a < p.bufMax ∧ v = cellByte ch c a := by
  unfold memRead at h
  split at h
  · exact ⟨‹_›, (Except.ok.inj h).symm⟩
  · cases h

/-- A write to the RAM keeps the canonical form. -/
theorem memWrite_wf {p : Params} {c c' : Chan} {a : Nat} {v : Byte} (h : memWrite p c a v = .ok c')
    (hc : memWf c.ibuf = true) : memWf c'.ibuf = true := by
  obtain ⟨-, rfl⟩ := memWrite_ok h
  exact memWf_memPut _ _ _ hc

/-- The byte just written is what the cell holds. -/
theorem cellByte_put_same (ch : ChanId) (c : Chan) (a : Nat) (v : Byte) :
    cellByte ch { c with ibuf := memPut c.ibuf a v } a = v := by
  simp [cellByte, memFind_memPut_same]

/-- Every other cell holds what it held. -/
theorem cellByte_put_other (ch : ChanId) (c : Chan) {a o : Nat} (v : Byte) (h : o ≠ a) :
    cellByte ch { c with ibuf := memPut c.ibuf a v } o = cellByte ch c o := by
  simp [cellByte, memFind_memPut_other _ _ h]

/-- A cell's byte depends on the memory alone. -/
theorem cellByte_congr (ch : ChanId) {c d : Chan} (h : c.ibuf = d.ibuf) (a : Nat) : cellByte ch c a = cellByte ch d a := by
  simp [cellByte, h]

/-- After reset nothing is written, and the memory of every channel is in canonical form. -/
theorem memWf_reset : ∀ c ∈ State.reset.chans, memWf c.ibuf = true := by decide

end Sys2Proof.Machine
end

