-- ==== Sys2Proof/Laws/Ops.lean ====
section
/-! SUPPORT. For each shared operation, what it can do: channels read after updates, the channel and context checks of
a command, the pump, the two translation loops, the two peripherals and the choice of the next agent. -/
namespace Sys2Proof.Machine

open Sys2Proof

/-! ## Channels -/

/-- The channel just replaced. -/
theorem chan_setChan_same {s : State} {ch : ChanId} (h : ch.toNat < s.nCh) (c : Chan) : (s.setChan ch c).chan ch = c := by
  have h' : ch.toNat < s.chans.length := h
  simp [State.chan, State.setChan, List.getD, h']

/-- Every other channel is as before. -/
theorem chan_setChan_other (s : State) {ch o : ChanId} (h : o ≠ ch) (c : Chan) : (s.setChan ch c).chan o = s.chan o := by
  have h' : ch.toNat ≠ o.toNat := fun e => h (BitVec.eq_of_toNat_eq e.symm)
  simp [State.chan, State.setChan, List.getD, h']

/-- A channel replaced by itself changes nothing. -/
@[simp] theorem setChan_chan (s : State) (ch : ChanId) : s.setChan ch (s.chan ch) = s := by
  unfold State.setChan State.chan
  by_cases h : ch.toNat < s.chans.length
  · simp [List.getD, h]
  · rw [List.set_eq_of_length_le (by omega)]

/-- Replacing a channel keeps their number. -/
@[simp] theorem nCh_setChan (s : State) (ch : ChanId) (c : Chan) : (s.setChan ch c).nCh = s.nCh := by
  simp [State.nCh]

@[simp] theorem nCh_respond (s : State) (st : Status) (v : Word) : (s.respond st v).nCh = s.nCh := rfl
@[simp] theorem chan_respond (s : State) (st : Status) (v : Word) (o : ChanId) : (s.respond st v).chan o = s.chan o := rfl
@[simp] theorem cell_respond (s : State) (st : Status) (v : Word) (o : ChanId) (a : Nat) :
    (s.respond st v).cell o a = s.cell o a := rfl
@[simp] theorem nCh_illegal (s : State) : s.illegal.nCh = s.nCh := rfl
@[simp] theorem chan_illegal (s : State) (o : ChanId) : s.illegal.chan o = s.chan o := rfl
@[simp] theorem nCh_contextRefused (s : State) : s.contextRefused.nCh = s.nCh := rfl
@[simp] theorem chan_contextRefused (s : State) (o : ChanId) : s.contextRefused.chan o = s.chan o := rfl
@[simp] theorem nCh_enterInterrupt (s : State) : s.enterInterrupt.nCh = s.nCh := rfl
@[simp] theorem chan_enterInterrupt (s : State) (o : ChanId) : s.enterInterrupt.chan o = s.chan o := rfl
@[simp] theorem nCh_leaveInterrupt (s : State) : s.leaveInterrupt.nCh = s.nCh := rfl
@[simp] theorem chan_leaveInterrupt (s : State) (o : ChanId) : s.leaveInterrupt.chan o = s.chan o := rfl
@[simp] theorem nCh_clockTick (s : State) : (clockTick s).nCh = s.nCh := rfl
@[simp] theorem chan_clockTick (s : State) (o : ChanId) : (clockTick s).chan o = s.chan o := rfl

/-- A channel's cells, after it is replaced by one with the same memory. -/
theorem cell_setChan_of_ibuf (s : State) (ch : ChanId) {c : Chan} (h : c.ibuf = (s.chan ch).ibuf) (o : ChanId) (a : Nat) :
    (s.setChan ch c).cell o a = s.cell o a := by
  unfold State.cell
  by_cases ho : o = ch
  · subst ho
    by_cases hn : o.toNat < s.nCh
    · rw [chan_setChan_same hn]; exact cellByte_congr _ h _
    · have hn' : s.chans.length ≤ o.toNat := Nat.le_of_not_lt hn
      simp [State.setChan, State.chan, List.getD, hn']
  · rw [chan_setChan_other _ ho]

/-- Raising an error that a channel's sticky bit records leaves every other channel, and every other piece of that
channel, as it was. -/
theorem chan_rejectBusy {s : State} {ch : ChanId} (h : ch.toNat < s.nCh) :
    (s.rejectBusy ch).chan ch = { s.chan ch with err := (s.chan ch).err ||| errPrecond } :=
  chan_setChan_same h _

theorem chan_rejectBusy_other (s : State) {ch o : ChanId} (h : o ≠ ch) : (s.rejectBusy ch).chan o = s.chan o :=
  chan_setChan_other s h _

@[simp] theorem nCh_rejectBusy (s : State) (ch : ChanId) : (s.rejectBusy ch).nCh = s.nCh := nCh_setChan _ _ _

/-! ## The checks of a command -/

/-- A command of an existing channel runs its rule on that channel. -/
theorem withChannel_of_lt {ch : ChanId} {s : State} (h : ch.toNat < s.nCh) (k : Chan → Result) :
    withChannel ch s k = k (s.chan ch) := by simp [withChannel, h]

/-- A command of a channel that does not exist is ILLEGAL. -/
theorem withChannel_of_ge {ch : ChanId} {s : State} (h : s.nCh ≤ ch.toNat) (k : Chan → Result) :
    withChannel ch s k = .next s.illegal := by simp [withChannel, Nat.not_lt_of_ge h]

/-- What a command of a channel can answer: ILLEGAL, or what its rule answers on that channel. -/
theorem withChannel_cases {ch : ChanId} {s : State} {k : Chan → Result} {r : Result} (h : withChannel ch s k = r) :
    (s.nCh ≤ ch.toNat ∧ r = .next s.illegal) ∨ (ch.toNat < s.nCh ∧ r = k (s.chan ch)) := by
  unfold withChannel at h
  split at h
  · exact .inr ⟨‹_›, h.symm⟩
  · exact .inl ⟨Nat.le_of_not_lt ‹_›, h.symm⟩

/-- The host's issue of an interrupt-context command. -/
theorem interruptOnly_host {s : State} (h : s.context = .host) (k : Result) :
    interruptOnly s k = .next s.contextRefused := by simp [interruptOnly, h]

/-- The interrupt context's issue of an interrupt-context command. -/
theorem interruptOnly_interrupt {s : State} (h : s.context = .interrupt) (k : Result) : interruptOnly s k = k := by
  simp [interruptOnly, h]

/-- What `mapNext` gives. -/
theorem mapNext_next {f : State → State} {r : Result} {t : State} (h : mapNext f r = .next t) :
    ∃ u, r = .next u ∧ t = f u := by
  cases r with
  | next u => exact ⟨u, rfl, (Host.Outcome.next.inj h).symm⟩
  | fault _ => cases h
  | refused _ => cases h

/-! ## The pump -/

/-- The frame length fits the cursor. -/
theorem frameLen_lt (c : Cfg) : frameLen c < 2 ^ 32 := by
  unfold frameLen
  have h1 := c.preLen.isLt
  have h2 := c.bufLen.isLt
  have h3 := c.appLen.isLt
  have h4 := c.grpLen.isLt
  have h5 := c.groupSize.isLt
  cases c.pumpKind <;> simp only []
  · split
    · have : (c.bufLen.toNat + c.groupSize.toNat - 1) / c.groupSize.toNat ≤ c.bufLen.toNat + c.groupSize.toNat - 1 :=
        Nat.div_le_self _ _
      have : (c.bufLen.toNat + c.groupSize.toNat - 1) / c.groupSize.toNat * c.grpLen.toNat ≤ 200000 * 8 :=
        Nat.mul_le_mul (by omega) (by omega)
      omega
    · omega
  · omega

/-- The pair of a position, if reading it does not fault. -/
theorem slotPair_ok {p : Params} {ch : ChanId} {c : Chan} {sl : Slot} {vm : Byte × Multiplier}
    (h : slotPair p ch c sl = .ok vm) :
    (∃ b, sl = .framing b ∧ vm = (b, unity)) ∨
    (∃ i, sl = .cell i ∧ i < p.bufMax ∧ vm = (cellByte ch c i, c.cfg.brightness)) := by
  cases sl with
  | framing b => exact .inl ⟨b, rfl, (Except.ok.inj h).symm⟩
  | cell i =>
    simp only [slotPair] at h
    split at h
    · obtain ⟨hi, rfl⟩ := memRead_ok ‹_›
      exact .inr ⟨i, rfl, hi, (Except.ok.inj h).symm⟩
    · cases h

/-- What PUMP_NEXT does, if it does not fault: it reads the position at the cursor and advances, or it is past the end
and records it. -/
theorem pumpNext_ok {p : Params} {ch : ChanId} {c c' : Chan} {vm : Byte × Multiplier}
    (h : pumpNext p ch c = .ok (vm, c')) :
    (∃ sl, (frameSlots c.cfg)[c.curOffset.toNat]? = some sl ∧ slotPair p ch c sl = .ok vm ∧
      c' = { c with curOffset := c.curOffset + 1 }) ∨
    ((frameSlots c.cfg).length ≤ c.curOffset.toNat ∧ vm = (0, unity) ∧ c' = { c with err := c.err ||| errOverread }) := by
  unfold pumpNext at h
  split at h
  · split at h
    · obtain ⟨rfl, rfl⟩ := Prod.mk.inj (Except.ok.inj h)
      exact .inl ⟨_, ‹_›, ‹_›, rfl⟩
    · cases h
  · obtain ⟨rfl, rfl⟩ := Prod.mk.inj (Except.ok.inj h)
    exact .inr ⟨List.getElem?_eq_none_iff.1 ‹_›, rfl, rfl⟩

/-- The pump moves only the cursor and the OVERREAD bit. -/
theorem pumpNext_frame {p : Params} {ch : ChanId} {c c' : Chan} {vm : Byte × Multiplier}
    (h : pumpNext p ch c = .ok (vm, c')) : c' = { c with curOffset := c'.curOffset, err := c'.err } := by
  rcases pumpNext_ok h with ⟨_, -, -, rfl⟩ | ⟨-, -, rfl⟩ <;> rfl

/-! ## The translation loops -/

/-- The pulse translation moves only the cursor and the OVERREAD bit. -/
theorem translateLoop_frame {p : Params} {ch : ChanId} {n : Nat} {c c' : Chan} {acc seq : List Word}
    (h : translateLoop p ch n c acc = .ok (seq, c')) : c' = { c with curOffset := c'.curOffset, err := c'.err } := by
  induction n generalizing c acc with
  | zero => obtain ⟨-, rfl⟩ := Prod.mk.inj (Except.ok.inj h); rfl
  | succ n ih =>
    simp only [translateLoop] at h
    split at h
    · split at h
      · have h1 := pumpNext_frame ‹_›
        have h2 := ih h
        rw [h2, h1]
      · cases h
    · obtain ⟨-, rfl⟩ := Prod.mk.inj (Except.ok.inj h); rfl

/-- The sequence a frame is translated into moves only the cursor and the OVERREAD bit. -/
theorem pulseSequence_frame {p : Params} {ch : ChanId} {c c' : Chan} {seq : List Word}
    (h : pulseSequence p ch c = .ok (seq, c')) : c' = { c with curOffset := c'.curOffset, err := c'.err } := by
  unfold pulseSequence at h
  split at h
  · obtain ⟨-, rfl⟩ := Prod.mk.inj (Except.ok.inj h)
    exact translateLoop_frame ‹_›
  · cases h

/-- The refill's loop moves only the FIFO, the cursor and the OVERREAD bit. -/
theorem refillLoop_frame {p : Params} {ch : ChanId} {n : Nat} {c c' : Chan} (h : refillLoop p ch n c = .ok c') :
    c' = { c with fifo := c'.fifo, curOffset := c'.curOffset, err := c'.err } := by
  induction n generalizing c with
  | zero => obtain rfl := Except.ok.inj h; rfl
  | succ n ih =>
    simp only [refillLoop] at h
    split at h
    · split at h
      · have h1 := pumpNext_frame ‹_›
        have h2 := ih h
        rw [h2, h1]
      · cases h
    · obtain rfl := Except.ok.inj h; rfl

/-- A value occupies `per` FIFO bytes (R152). -/
theorem valueBytes_length (c : Chan) (s : Byte) : (valueBytes c s).length = bytesPerValue c := by
  unfold valueBytes bytesPerValue
  split
  · simp only [bytesOf, bitsOf, List.length_flatMap, List.length_map, List.length_range, List.map_map,
      Function.comp_def, List.map_const', List.sum_replicate, smul_eq_mul]
    ring
  · rfl

/-- What the refill's loop adds: `k` values read and queued, none only where nothing was asked for or the pump is
exhausted, and never past the end of the frame. -/
theorem refillLoop_progress {p : Params} {ch : ChanId} {n : Nat} {c c' : Chan}
    (h : refillLoop p ch n c = .ok c') (hl : (frameSlots c.cfg).length = frameLen c.cfg) :
    ∃ k, c'.curOffset.toNat = c.curOffset.toNat + k ∧ c'.fifo.length = c.fifo.length + k * bytesPerValue c ∧
      (k = 0 → c' = c ∧ (n = 0 ∨ pumpMore c = false)) ∧ (0 < k → c.curOffset.toNat + k ≤ frameLen c.cfg) := by
  induction n generalizing c with
  | zero => obtain rfl := Except.ok.inj h; exact ⟨0, by simp⟩
  | succ n ih =>
    simp only [refillLoop] at h
    split at h
    · rename_i hm
      simp only [pumpMore, decide_eq_true_eq] at hm
      split at h
      · rename_i v m c1 hp
        obtain ⟨_, -, -, rfl⟩ | ⟨hge, -, -⟩ := pumpNext_ok hp
        · have ho : (c.curOffset + 1).toNat = c.curOffset.toNat + 1 := by
            have := frameLen_lt c.cfg
            rw [BitVec.toNat_add, Nat.mod_eq_of_lt]
            · rfl
            · simp; omega
          obtain ⟨k, h1, h2, h3, h4⟩ := ih h hl
          simp only [ho] at h1 h4
          refine ⟨k + 1, by omega, ?_, by omega, fun _ => ?_⟩
          · rw [h2, List.length_append, valueBytes_length, Nat.add_mul]
            simp only [bytesPerValue]
            omega
          · by_cases hk : k = 0
            · omega
            · have := h4 (by omega); omega
        · omega
      · cases h
    · obtain rfl := Except.ok.inj h
      exact ⟨0, by simp_all⟩

/-- The refill moves only the FIFO, the cursor, the OVERREAD bit and, as the frame begins or ends, the frame state. -/
theorem refill_frame {p : Params} {ch : ChanId} {c c' : Chan} (h : refill p ch c = .ok c') :
    c' = { c with fifo := c'.fifo, curOffset := c'.curOffset, err := c'.err, state := c'.state, intEn := c'.intEn,
                  curActive := c'.curActive, framesDone := c'.framesDone } := by
  unfold refill at h
  split at h
  · have h1 := refillLoop_frame ‹_›
    obtain rfl := Except.ok.inj h
    rw [h1]
    split <;> split <;> rfl
  · cases h

/-! ## The peripherals -/

/-- An item moves only the trace and the line. -/
theorem emitItem_frame (c : Chan) (d : Word) :
    emitItem c d = { c with ptTrace := (emitItem c d).ptTrace, line := (emitItem c d).line } := by
  unfold emitItem emitHalf
  split <;> split <;> rfl

/-- One step of the pulse peripheral on a queue with a head: the head's segments, then the change of the frame
state. -/
theorem ptEmit_cons {c : Chan} {d : Word} {rest : List Word} (h : c.ptq = d :: rest) :
    ptEmit c =
      let e := emitItem { c with ptq := rest } d
      let e := if e.state = .armed then { e with state := .streaming } else e
      if rest = [] then finishPulseFrame e else e := by
  unfold ptEmit
  split
  · rename_i hq; rw [h] at hq; cases hq
  · rename_i d' rest' hq
    rw [h] at hq
    obtain ⟨rfl, rfl⟩ := List.cons.inj hq
    rfl

/-- One step of the pulse peripheral moves only the queue, the trace, the line and the frame's end. -/
theorem ptEmit_frame (c : Chan) :
    ptEmit c = { c with ptq := c.ptq.tail, ptTrace := (ptEmit c).ptTrace, line := (ptEmit c).line,
                        state := (ptEmit c).state, curActive := (ptEmit c).curActive,
                        framesDone := (ptEmit c).framesDone } := by
  cases hq : c.ptq with
  | nil => simp only [ptEmit, hq, List.tail_nil]; cases c; cases hq; rfl
  | cons d rest =>
    have h1 := emitItem_frame { c with ptq := rest } d
    rw [ptEmit_cons hq]
    dsimp only [List.tail_cons]
    generalize emitItem { c with ptq := rest } d = e at h1 ⊢
    cases e
    cases h1
    split <;> split <;> rfl

/-- One step of the byte-serial peripheral moves the head byte of the FIFO to the trace. -/
theorem uartDrain_cons {c : Chan} {b : Byte} {rest : List Byte} (h : c.fifo = b :: rest) :
    uartDrain c = { c with fifo := rest, uartTrace := c.uartTrace ++ [.byte b] } := by
  simp [uartDrain, h, emitUart]

/-! ## The next agent -/

/-- The element that a fold for the smallest key keeps is the first or one of the list, and no key is smaller. -/
theorem foldl_least {α : Type} (key : α → Nat) (l : List α) (x : α) :
    let m := l.foldl (fun best a => if key a < key best then a else best) x
    (m = x ∨ m ∈ l) ∧ key m ≤ key x ∧ ∀ a ∈ l, key m ≤ key a := by
  induction l generalizing x with
  | nil => simp
  | cons b l ih =>
    obtain ⟨h1, h2, h3⟩ := ih (if key b < key x then b else x)
    have hb : key (if key b < key x then b else x) ≤ key b ∧ key (if key b < key x then b else x) ≤ key x := by
      split <;> omega
    refine ⟨?_, h2.trans hb.2, fun a ha => ?_⟩
    · rcases h1 with h1 | h1
      · rw [List.foldl_cons, h1]
        split <;> simp
      · exact .inr (List.mem_cons_of_mem _ h1)
    · rcases List.mem_cons.1 ha with rfl | ha
      · exact h2.trans hb.1
      · exact h3 a ha

/-- What a free move can be: CLOCK's or that of another enabled agent, and of none that falls due later than another
enabled one. -/
theorem freeMove_spec (s : State) :
    (freeMove s = .clock ∨ freeMove s ∈ (otherAgents s.nCh).filter (enabled s)) ∧
    s.dueAt (freeMove s) ≤ s.dueAt .clock ∧
    ∀ a ∈ otherAgents s.nCh, enabled s a = true → s.dueAt (freeMove s) ≤ s.dueAt a := by
  obtain ⟨h1, h2, h3⟩ := foldl_least s.dueAt ((otherAgents s.nCh).filter (enabled s)) .clock
  exact ⟨h1, h2, fun a ha hm => h3 a (List.mem_filter.2 ⟨ha, hm⟩)⟩

/-- A free move is a move of an enabled agent. -/
theorem freeMove_enabled (s : State) : enabled s (freeMove s) = true := by
  rcases (freeMove_spec s).1 with h | h
  · rw [h]; rfl
  · exact (List.mem_filter.1 h).2

/-- Stopping moves only the host's stream. -/
theorem hostMayStop_frame (s : State) :
    s.hostMayStop = { s with commands := s.hostMayStop.commands, onward := s.hostMayStop.onward } := by
  unfold State.hostMayStop
  split
  · rfl
  · split <;> rfl
  · split <;> rfl

/-- The host goes on with its stream as it is, or it stops and has nothing more to issue. -/
theorem hostMayStop_cases (s : State) :
    s.hostMayStop = s ∨ s.hostMayStop = { s with commands := [], onward := .stops } := by
  unfold State.hostMayStop
  split
  · exact .inl rfl
  · split <;> simp
  · split <;> simp

/-- A host that has nothing to issue stays as it is. -/
theorem hostMayStop_of_none {s : State} (h : s.takeCommand = none) : s.hostMayStop = s := by
  unfold State.hostMayStop
  split <;> simp [h]

/-- A host that repeats its commands does not stop. -/
theorem hostMayStop_of_repeats {s : State} {program : List (Word × Word)} (h : s.onward = .repeats program) :
    s.hostMayStop = s := by
  simp only [State.hostMayStop, h]

/-- An agent that is enabled once the host may have stopped was enabled before. -/
theorem enabled_of_hostMayStop {s : State} {a : Agent} (h : enabled s.hostMayStop a = true) : enabled s a = true := by
  rcases hostMayStop_cases s with e | e
  · rwa [e] at h
  · rw [e] at h
    cases a with
    | host => simp [enabled, State.takeCommand] at h
    | _ => exact h

/-- The agent that moves next is enabled. -/
theorem nextMove_enabled (s : State) : enabled s (nextMove s).1 = true := by
  unfold nextMove
  split
  · rename_i a rest h
    have := List.head?_dropWhile_not (fun a => !enabled s a) s.schedule
    simpa [h] using this
  · exact enabled_of_hostMayStop (freeMove_enabled _)

/-- Choosing the next agent moves only the fields of the schedule, and the host's stream where the host stops. -/
theorem nextMove_frame (s : State) :
    (nextMove s).2 = { s with schedule := (nextMove s).2.schedule, turn := (nextMove s).2.turn,
                              drawn := (nextMove s).2.drawn, commands := (nextMove s).2.commands,
                              onward := (nextMove s).2.onward } := by
  unfold nextMove
  split
  · rfl
  · simp only [State.drawAfter]
    rw [hostMayStop_frame s]

/-- The host's stream after the next agent is chosen: as it was, or ended, and ended only by a free move of another
agent. -/
theorem nextMove_stream (s : State) :
    ((nextMove s).2.commands = s.commands ∧ (nextMove s).2.onward = s.onward) ∨
    ((nextMove s).2.commands = [] ∧ (nextMove s).2.onward = .stops ∧ (nextMove s).1 ≠ .host) := by
  unfold nextMove
  split
  · exact .inl ⟨rfl, rfl⟩
  · rcases hostMayStop_cases s with e | e
    · rw [e]; exact .inl ⟨rfl, rfl⟩
    · refine .inr ⟨by rw [e]; rfl, by rw [e]; rfl, fun h => ?_⟩
      have en := freeMove_enabled s.hostMayStop
      rw [show freeMove s.hostMayStop = .host from h, e] at en
      simp [enabled, State.takeCommand] at en

/-- A host that repeats its commands keeps its stream when the next agent is chosen. -/
theorem nextMove_stream_of_repeats {s : State} {program : List (Word × Word)} (h : s.onward = .repeats program) :
    (nextMove s).2.commands = s.commands ∧ (nextMove s).2.onward = s.onward := by
  unfold nextMove
  split
  · exact ⟨rfl, rfl⟩
  · rw [hostMayStop_of_repeats h]; exact ⟨rfl, rfl⟩

/-! ## Commands and the pump on states with BUF_LEN within the RAM -/

/-- What an answer with one channel replaced does, where the buffer of that channel stays. -/
theorem setChan_respond_frame {s : State} {ch : ChanId} (h : ch.toNat < s.nCh) (c : Chan) (st : Status) (v : Word)
    (hm : c.ibuf = (s.chan ch).ibuf) :
    ((s.setChan ch c).respond st v).chan ch = c ∧ OnlyChannel ch s ((s.setChan ch c).respond st v) ∧
      SameMemory s ((s.setChan ch c).respond st v) := by
  refine ⟨by simp [chan_setChan_same h], ?_, fun o a => by simp [cell_setChan_of_ibuf s ch hm]⟩
  exact ⟨rfl, by simp, fun o ho => by simp [chan_setChan_other _ ho], rfl, rfl, rfl, rfl, rfl, rfl, rfl, rfl, rfl⟩

/-- The cells of a frame are below BUF_LEN (R165). -/
theorem frameSlots_cell_lt {c : Cfg} {i : Nat} (h : Slot.cell i ∈ frameSlots c) : i < c.bufLen.toNat := by
  simp only [frameSlots, List.mem_append, framingSlots, List.mem_map, reduceCtorEq, and_false, exists_false, false_or,
    or_false] at h
  cases hk : c.pumpKind <;> simp only [hk] at h
  · simp only [List.mem_flatMap, List.mem_range, List.mem_append, List.mem_singleton, Slot.cell.injEq, groupPreamble,
      framingSlots] at h
    obtain ⟨a, ha, hb | hb⟩ := h
    · split at hb <;> simp at hb
    · omega
  · simp at h; exact h

/-- A position of a frame reads as its pair. -/
theorem slotPair_of_mem {p : Params} {ch : ChanId} {c : Chan} {sl : Slot} (h : sl ∈ frameSlots c.cfg)
    (hm : c.cfg.bufLen.toNat ≤ p.bufMax) : slotPair p ch c sl = .ok (slotValue ch c sl) := by
  cases sl with
  | framing b => rfl
  | cell i =>
    have := frameSlots_cell_lt h
    simp [slotPair, memRead, show i < p.bufMax by omega, slotValue]

/-- PUMP_NEXT within the frame image (R169). -/
theorem pumpNext_of_getElem {p : Params} {ch : ChanId} {c : Chan} (hm : c.cfg.bufLen.toNat ≤ p.bufMax)
    {vm : Byte × Multiplier} (h : (frameImage ch c)[c.curOffset.toNat]? = some vm) :
    pumpNext p ch c = .ok (vm, { c with curOffset := c.curOffset + 1 }) := by
  simp only [frameImage, List.getElem?_map, Option.map_eq_some_iff] at h
  obtain ⟨sl, h1, rfl⟩ := h
  simp only [pumpNext, h1, slotPair_of_mem (List.mem_of_getElem? h1) hm]

/-- PUMP_NEXT past the end of the frame image (R169). -/
theorem pumpNext_of_length_le {p : Params} {ch : ChanId} {c : Chan}
    (h : (frameImage ch c).length ≤ c.curOffset.toNat) :
    pumpNext p ch c = .ok ((0, unity), { c with err := c.err ||| errOverread }) := by
  simp only [frameImage, List.length_map] at h
  simp only [pumpNext, List.getElem?_eq_none h]

end Sys2Proof.Machine
end

