-- ==== Sys2Proof/Laws/PerInstr.lean ====
section
/-! SUPPORT. What every command's encoding holds, one lemma per constructor: its opcode in the OPC field and its channel
in the CH field (R71, R80). -/
namespace Sys2Proof.Laws

open Sys2Proof

/-- The OPC field of a header is the opcode it is made of. -/
theorem opcField_header (o : BitVec 8) (c : ChanId) (s : BitVec 4) (i : Imm16) : opcField (header o c s i) = o := by
  unfold opcField header
  ext k hk
  simp
  grind

/-- The CH field of a header is the channel it is made of. -/
theorem chField_header (o : BitVec 8) (c : ChanId) (s : BitVec 4) (i : Imm16) : chField (header o c s i) = c := by
  unfold chField header
  ext k hk
  simp
  grind

/-- The SYM field of a header is the symbol id it is made of. -/
theorem symField_header (o : BitVec 8) (c : ChanId) (s : BitVec 4) (i : Imm16) : symField (header o c s i) = s := by
  unfold symField header
  ext k hk
  simp
  grind

/-- The IMM16 field of a header is the immediate it is made of. -/
theorem immField_header (o : BitVec 8) (c : ChanId) (s : BitVec 4) (i : Imm16) : immField (header o c s i) = i := by
  unfold immField header
  ext k hk
  simp
  grind

/-- The opcode of a command (R80). -/
def opcodeOf : Instr → BitVec 8
  | .nop => 0x00
  | .cfgWrite _ _ _ => 0x01
  | .cfgRead _ _ => 0x02
  | .bufWrite _ _ _ => 0x03
  | .bufRead _ _ => 0x04
  | .tableBuild _ => 0x05
  | .setSymbol _ _ _ => 0x06
  | .lookup _ _ => 0x07
  | .beginCh _ => 0x08
  | .render _ => 0x09
  | .stop _ => 0x0A
  | .pause _ => 0x0B
  | .resume _ => 0x0C
  | .setMinFrame _ _ => 0x0D
  | .setWidth _ _ => 0x0E
  | .isrFill _ => 0x0F
  | .pumpStart _ => 0x10
  | .pumpMore _ => 0x11
  | .pumpNext _ => 0x12
  | .pacerQuery _ => 0x13
  | .pacerRecord _ => 0x14

namespace EncodingFields

/-- The header of a command's encoding holds its opcode, and its channel where it names one. -/
def Statement (i : Instr) : Prop :=
  opcField (encode i).1 = opcodeOf i ∧ chField (encode i).1 = i.channel.getD 0

theorem nop : Statement Instr.nop := ⟨opcField_header _ _ _ _, chField_header _ _ _ _⟩
theorem cfgWrite (ch : ChanId) (field : Imm16) (value : Word) : Statement (.cfgWrite ch field value) := ⟨opcField_header _ _ _ _, chField_header _ _ _ _⟩
theorem cfgRead (ch : ChanId) (field : Imm16) : Statement (.cfgRead ch field) := ⟨opcField_header _ _ _ _, chField_header _ _ _ _⟩
theorem bufWrite (ch : ChanId) (addr : Imm16) (data : Byte) : Statement (.bufWrite ch addr data) := ⟨opcField_header _ _ _ _, chField_header _ _ _ _⟩
theorem bufRead (ch : ChanId) (addr : Imm16) : Statement (.bufRead ch addr) := ⟨opcField_header _ _ _ _, chField_header _ _ _ _⟩
theorem tableBuild (ch : ChanId) : Statement (.tableBuild ch) := ⟨opcField_header _ _ _ _, chField_header _ _ _ _⟩
theorem setSymbol (ch : ChanId) (sym : Sym) (word : Word) : Statement (.setSymbol ch sym word) := ⟨opcField_header _ _ _ _, chField_header _ _ _ _⟩
theorem lookup (ch : ChanId) (sym : Sym) : Statement (.lookup ch sym) := ⟨opcField_header _ _ _ _, chField_header _ _ _ _⟩
theorem beginCh (ch : ChanId) : Statement (.beginCh ch) := ⟨opcField_header _ _ _ _, chField_header _ _ _ _⟩
theorem render (ch : ChanId) : Statement (.render ch) := ⟨opcField_header _ _ _ _, chField_header _ _ _ _⟩
theorem stop (ch : ChanId) : Statement (.stop ch) := ⟨opcField_header _ _ _ _, chField_header _ _ _ _⟩
theorem pause (ch : ChanId) : Statement (.pause ch) := ⟨opcField_header _ _ _ _, chField_header _ _ _ _⟩
theorem resume (ch : ChanId) : Statement (.resume ch) := ⟨opcField_header _ _ _ _, chField_header _ _ _ _⟩
theorem setMinFrame (ch : ChanId) (us : Word) : Statement (.setMinFrame ch us) := ⟨opcField_header _ _ _ _, chField_header _ _ _ _⟩
theorem setWidth (ch : ChanId) (w : Word) : Statement (.setWidth ch w) := ⟨opcField_header _ _ _ _, chField_header _ _ _ _⟩
theorem isrFill (ch : ChanId) : Statement (.isrFill ch) := ⟨opcField_header _ _ _ _, chField_header _ _ _ _⟩
theorem pumpStart (ch : ChanId) : Statement (.pumpStart ch) := ⟨opcField_header _ _ _ _, chField_header _ _ _ _⟩
theorem pumpMore (ch : ChanId) : Statement (.pumpMore ch) := ⟨opcField_header _ _ _ _, chField_header _ _ _ _⟩
theorem pumpNext (ch : ChanId) : Statement (.pumpNext ch) := ⟨opcField_header _ _ _ _, chField_header _ _ _ _⟩
theorem pacerQuery (ch : ChanId) : Statement (.pacerQuery ch) := ⟨opcField_header _ _ _ _, chField_header _ _ _ _⟩
theorem pacerRecord (ch : ChanId) : Statement (.pacerRecord ch) := ⟨opcField_header _ _ _ _, chField_header _ _ _ _⟩

end EncodingFields

end Sys2Proof.Laws
end

