-- ==== Sys2Proof/Laws/Schedule.lean ====
section
/-! SUPPORT. What steps leave alone of the schedule's fields, and which agent a free move picks. -/
namespace Sys2Proof.Machine

open Sys2Proof

/-! ## Steps leave the schedule's fields alone -/

/-- Two equal next outcomes have one state. -/
theorem outcome_next_inj {s t : State} (h : (Host.Outcome.next s : Result) = .next t) : s = t := by cases h; rfl

/-- A command leaves the schedule, the draws, the number of channels and the host's stream alone. -/
theorem exec_keeps {i : Instr} {s t : State} (h : exec i s = .next t) :
    (t.schedule = s.schedule ∧ t.turn = s.turn ∧ t.drawn = s.drawn ∧ t.nCh = s.nCh) ∧
    t.commands = s.commands ∧ t.onward = s.onward := by
  cases i <;>
    simp only [exec, execNop, execCfgWrite, execCfgRead, execBufWrite, execBufRead, execTableBuild, execSetSymbol,
      execLookup, execBegin, execRender, execStop, execPause, execResume, execSetMinFrame, execSetWidth,
      execIsrFill, execPumpStart, execPumpMore, execPumpNext, execPacerQuery, execPacerRecord, withChannel, interruptOnly] at h
  all_goals try simp only [renderPulse] at h
  all_goals (repeat' split at h)
  all_goals first
    | (cases h; done)
    | (obtain rfl := outcome_next_inj h; exact ⟨⟨rfl, rfl, rfl, by simp⟩, rfl, rfl⟩)
    | (obtain rfl := outcome_next_inj h; exact ⟨⟨rfl, rfl, rfl, by simp [State.raise, State.setSticky]⟩, rfl, rfl⟩)

/-- Taking a command leaves all but the host's stream alone. -/
theorem takeCommand_frame {s u : State} {w : Word × Word} (h : s.takeCommand = some (w, u)) :
    u = { s with commands := u.commands, onward := u.onward } := by
  unfold State.takeCommand at h
  split at h <;> cases h <;> rfl

/-- A host that repeats its commands goes on doing so. -/
theorem takeCommand_onward_repeats {s u : State} {w : Word × Word} {program : List (Word × Word)}
    (h : s.takeCommand = some (w, u)) (hr : s.onward = .repeats program) : u.onward = .repeats program := by
  unfold State.takeCommand at h
  split at h <;> cases h <;> simp_all

/-- Which agents are enabled does not depend on the schedule. -/
theorem enabled_withSchedule (s : State) (l : List Agent) (a : Agent) :
    enabled { s with schedule := l } a = enabled s a := by
  cases a with
  | host =>
    simp only [enabled, State.takeCommand]
    split <;> simp_all
  | _ => rfl

/-- Which agents but the host are enabled depends on the channels alone. -/
theorem enabled_of_chans {s t : State} (h : t.chans = s.chans) {a : Agent} (ha : a ≠ .host) :
    enabled t a = enabled s a := by
  have chan : ∀ ch, t.chan ch = s.chan ch := fun ch => by simp only [State.chan, h]
  have nCh : t.nCh = s.nCh := by simp only [State.nCh, h]
  cases a with
  | host => exact absurd rfl ha
  | _ => simp only [enabled, chan, nCh]

/-- A host that repeats commands always has one to issue. -/
theorem enabled_host_of_repeats {s : State} {w : Word × Word} {rest : List (Word × Word)}
    (h : s.onward = .repeats (w :: rest)) : enabled s .host = true := by
  simp only [enabled, State.takeCommand, h]
  cases s.commands <;> rfl

/-- What running a decoded pair of words leaves alone. -/
theorem runDecoded_keeps {d : Except DecodeError Instr} {s t : State} (h : runDecoded d s = .next t) :
    (t.schedule = s.schedule ∧ t.turn = s.turn ∧ t.drawn = s.drawn ∧ t.nCh = s.nCh) ∧
    t.commands = s.commands ∧ t.onward = s.onward := by
  unfold runDecoded at h
  split at h
  · exact exec_keeps h
  · obtain rfl := outcome_next_inj h
    exact ⟨⟨rfl, rfl, rfl, rfl⟩, rfl, rfl⟩

/-- Recording a response leaves all but the observation alone. -/
theorem recordHost_frame (w0 w1 : Word) (s : State) :
    recordHost w0 w1 s = { s with hostTrace := (recordHost w0 w1 s).hostTrace } := by
  unfold recordHost
  split <;> rfl

/-- What a host step can be: nothing where the host has stopped, or a command taken, run and recorded. -/
theorem hostStep_cases {s t : State} (h : hostStep s = .next t) :
    (s.takeCommand = none ∧ t = s) ∨
    ∃ w u v, s.takeCommand = some (w, u) ∧
      runDecoded (decode s.nCh w.1 w.2) { u with context := .host } = .next v ∧ t = recordHost w.1 w.2 v := by
  unfold hostStep at h
  split at h
  · exact .inl ⟨by assumption, (outcome_next_inj h).symm⟩
  · rename_i w0 w1 u hu
    obtain ⟨v, hv, rfl⟩ := mapNext_next h
    exact .inr ⟨(w0, w1), u, v, hu, hv, rfl⟩

/-- The step of an agent leaves the schedule, the draws and the number of channels alone, and a repeating host
repeating. -/
theorem agentStep_keeps {a : Agent} {s t : State} (h : agentStep a s = .next t) :
    (t.schedule = s.schedule ∧ t.turn = s.turn ∧ t.drawn = s.drawn ∧ t.nCh = s.nCh) ∧
    ∀ program, s.onward = .repeats program → t.onward = .repeats program := by
  cases a with
  | host =>
    rcases hostStep_cases h with ⟨-, rfl⟩ | ⟨w, u, v, hu, hv, rfl⟩
    · exact ⟨⟨rfl, rfl, rfl, rfl⟩, fun _ => id⟩
    · have e := runDecoded_keeps hv
      have f := takeCommand_frame hu
      rw [recordHost_frame]
      refine ⟨?_, fun program hr => ?_⟩
      rotate_left
      · have hp := takeCommand_onward_repeats hu hr
        exact e.2.2.trans hp
      have g := e.1
      rw [f] at g
      exact g
  | isr ch =>
    obtain ⟨u, hu, rfl⟩ := mapNext_next h
    have e := exec_keeps hu
    exact ⟨e.1, fun _ hr => e.2.2.trans hr⟩
  | pt ch => obtain rfl := outcome_next_inj h; exact ⟨⟨rfl, rfl, rfl, by simp⟩, fun _ => id⟩
  | uart ch => obtain rfl := outcome_next_inj h; exact ⟨⟨rfl, rfl, rfl, by simp⟩, fun _ => id⟩
  | clock => obtain rfl := outcome_next_inj h; exact ⟨⟨rfl, rfl, rfl, rfl⟩, fun _ => id⟩

/-- The step of an agent other than the host leaves the host's stream alone. -/
theorem agentStep_stream_of_ne_host {a : Agent} {s t : State} (h : agentStep a s = .next t) (ha : a ≠ .host) :
    t.commands = s.commands ∧ t.onward = s.onward := by
  cases a with
  | host => exact absurd rfl ha
  | isr ch =>
    obtain ⟨u, hu, rfl⟩ := mapNext_next h
    exact (exec_keeps hu).2
  | pt ch => obtain rfl := outcome_next_inj h; exact ⟨rfl, rfl⟩
  | uart ch => obtain rfl := outcome_next_inj h; exact ⟨rfl, rfl⟩
  | clock => obtain rfl := outcome_next_inj h; exact ⟨rfl, rfl⟩

/-! ## The free move -/

/-- The agents of channel `ch` stand together in the list of all channels' agents. -/
theorem drop_flatMap_channelAgents (n : Nat) (ch : Nat) (h : ch < n) :
    ((List.range n).flatMap channelAgents).drop (3 * ch) =
      channelAgents ch ++ ((List.range n).drop (ch + 1)).flatMap channelAgents := by
  have hl : ∀ l : List Nat, (l.flatMap channelAgents).length = 3 * l.length := by
    intro l; induction l with
    | nil => rfl
    | cons a l ih => rw [List.flatMap_cons, List.length_append, ih]; simp [channelAgents]; omega
  conv_lhs => rw [← List.take_append_drop ch (List.range n)]
  rw [List.flatMap_append, List.drop_append_of_le_length (by rw [hl]; simp; omega)]
  rw [List.drop_of_length_le (by rw [hl]; simp), List.nil_append]
  rw [List.drop_eq_getElem_cons (by simpa using h)]
  simp

/-- An enabled agent stands at its number in the list of all agents. -/
theorem allAgents_getElem_agentNumber {s : State} {a : Agent} (h : enabled s a = true) :
    (allAgents s.nCh)[agentNumber a]? = some a := by
  have key : ∀ (ch : ChanId) (j : Nat), ch.toNat < s.nCh → j < 3 →
      ((List.range s.nCh).flatMap channelAgents)[3 * ch.toNat + j]? = (channelAgents ch.toNat)[j]? := by
    intro ch j hc hj
    rw [← List.getElem?_drop, drop_flatMap_channelAgents _ _ hc,
      List.getElem?_append_left (by simpa [channelAgents] using hj)]
  cases a with
  | clock => rfl
  | host => rfl
  | isr ch =>
    simp only [enabled, Bool.and_eq_true, decide_eq_true_eq] at h
    have := key ch 0 h.1 (by omega)
    simpa [allAgents, otherAgents, agentNumber, channelAgents] using this
  | pt ch =>
    simp only [enabled, Bool.and_eq_true, decide_eq_true_eq] at h
    have := key ch 1 h.1 (by omega)
    simpa [allAgents, otherAgents, agentNumber, channelAgents] using this
  | uart ch =>
    simp only [enabled, Bool.and_eq_true, decide_eq_true_eq] at h
    have := key ch 2 h.1 (by omega)
    simpa [allAgents, otherAgents, agentNumber, channelAgents] using this

/-- A free move falls due no later than any enabled agent. -/
theorem freeMove_dueAt_le {s : State} {a : Agent} (h : enabled s a = true) : s.dueAt (freeMove s) ≤ s.dueAt a := by
  by_cases hc : a = .clock
  · subst hc; exact (freeMove_spec s).2.1
  · refine (freeMove_spec s).2.2 a ?_ h
    have := List.mem_of_getElem? (allAgents_getElem_agentNumber h)
    simpa [allAgents, hc] using this

/-- What a free move leaves as the draw of a listed agent. -/
theorem drawnAt_drawAfter {s : State} {a m : Agent} (h : (allAgents s.nCh)[agentNumber a]? = some a) :
    (s.drawAfter m).drawnAt a = if a = m ∨ enabled s a = false then s.turn + 1 else s.drawnAt a := by
  simp only [State.drawnAt, State.drawAfter, List.getD_eq_getElem?_getD, List.getElem?_map, h, Option.map_some,
    Option.getD_some]

end Sys2Proof.Machine
end

