-- ==== Sys2Proof/Tests/Slice0.lean ====
section
/-! SUPPORT. Small tests: the smoke test of well-formedness, one word of every command written out from the spec's
encoding of it, results of 95_test_vectors.md, and for every statement with hypotheses a state that meets them. -/
namespace Sys2Proof.Tests

open Sys2Proof Sys2Proof.Machine

-- One theorem at a time: tests that wait for the kernel side by side hold a thread each.
set_option Elab.async false

/-! ## Well-formedness and decoding -/

/-- R82: channel 2 of a machine of two channels. -/
theorem test_wellFormed_refuses_missing_channel : Instr.wellFormed 2 (.render 2) = false := by decide

/-- R82: channel 1 exists, and NOP names none. -/
theorem test_wellFormed_accepts : Instr.wellFormed 2 (.render 1) = true ∧ Instr.wellFormed 0 .nop = true := by decide

/-- R80, R83: W0 = 0x00000000, and every other bit set. -/
theorem test_decode_nop : decode 2 0x00000000 0 = .ok .nop ∧ decode 2 0x00FFFFFF 0xFFFFFFFF = .ok .nop := by decide

/-- R71, R72, R80: OPC 0x01, CH 0, FIELD 0x10 (TICK_PS), W1 = 12500 (R89). -/
theorem test_decode_cfgWrite : decode 2 0x01000010 0x000030D4 = .ok (.cfgWrite 0 0x10 12500) := by decide

/-- OPC 0x02, CH 1, FIELD 0x41. -/
theorem test_decode_cfgRead : decode 2 0x02100041 0 = .ok (.cfgRead 1 0x41) := by decide

/-- OPC 0x03, CH 0, ADDR 3, W1[7:0] = 0xB4 (R89); W1[31:8] is ignored. -/
theorem test_decode_bufWrite : decode 2 0x03000003 0xFFFFFFB4 = .ok (.bufWrite 0 3 0xB4) := by decide

/-- OPC 0x04, CH 1, ADDR 0x0102. -/
theorem test_decode_bufRead : decode 2 0x04100102 0 = .ok (.bufRead 1 0x102) := by decide

/-- OPC 0x05, CH 1. -/
theorem test_decode_tableBuild : decode 2 0x05100000 7 = .ok (.tableBuild 1) := by decide

/-- OPC 0x06, CH 1, SYM 1, W1 = 0xC0 (R89); SYM 5 is reserved (D-8). -/
theorem test_decode_setSymbol :
    decode 2 0x06110000 0xC0 = .ok (.setSymbol 1 .oneBit 0xC0) ∧ decode 2 0x06050000 0 = .error .reservedSymbol := by
  decide

/-- OPC 0x07, CH 0, SYM 2 (R89). -/
theorem test_decode_lookup : decode 2 0x07020000 0 = .ok (.lookup 0 .interframeGap) := by decide

/-- OPC 0x08, CH 1; IMM16 not zero (D-10). -/
theorem test_decode_begin :
    decode 2 0x08100000 0 = .ok (.beginCh 1) ∧ decode 2 0x08000001 0 = .error .mustBeZero := by decide

/-- OPC 0x09, CH 0 (R89); CH 2 of two channels (D-13). -/
theorem test_decode_render :
    decode 2 0x09000000 0 = .ok (.render 0) ∧ decode 2 0x09200000 0 = .error .noSuchChannel := by decide

/-- OPC 0x0A to 0x0C, CH 1. -/
theorem test_decode_stop_pause_resume :
    decode 2 0x0A100000 0 = .ok (.stop 1) ∧ decode 2 0x0B100000 0 = .ok (.pause 1) ∧
    decode 2 0x0C100000 0 = .ok (.resume 1) := by decide

/-- OPC 0x0D and 0x0E, format V: W1 is the value (X-20, X-18); IMM16 not zero (D-12). -/
theorem test_decode_setMinFrame_setWidth :
    decode 2 0x0D000000 0x61A8 = .ok (.setMinFrame 0 25000) ∧ decode 2 0x0E100000 9 = .ok (.setWidth 1 9) ∧
    decode 2 0x0D000001 0 = .error .mustBeZero := by decide

/-- OPC 0x0F, 0x10, 0x12 and 0x14: the commands of the interrupt context decode like the others (D-14 to D-17). -/
theorem test_decode_internal :
    decode 2 0x0F100000 0 = .ok (.isrFill 1) ∧ decode 2 0x10000000 0 = .ok (.pumpStart 0) ∧
    decode 2 0x12000000 0 = .ok (.pumpNext 0) ∧ decode 2 0x14000000 0 = .ok (.pacerRecord 0) := by decide

/-- OPC 0x11 and 0x13 (D-20, D-21). -/
theorem test_decode_queries :
    decode 2 0x11000000 0 = .ok (.pumpMore 0) ∧ decode 2 0x13100000 0 = .ok (.pacerQuery 1) := by decide

/-- R81: opcodes 0x15 and 0xFF (D-6, D-7). -/
theorem test_decode_reserved :
    decode 2 0x15000000 0 = .error .reservedOpcode ∧ decode 2 0xFF000000 0 = .error .reservedOpcode := by decide

/-- The table's numbering: bit 32 is bit 0 of W1. -/
theorem test_decodeTableWord :
    decodeTableWord 64 (0x06110000 + 0xC0 * 2 ^ 32) = some (.setSymbol 1 .oneBit 0xC0) ∧
    decodeTableWord 32 0x06110000 = some (.setSymbol 1 .oneBit 0) := by decide

/-! ## States to test on -/

/-- The response of an outcome. -/
def answer (r : Result) : Option (Status × Nat) :=
  match r with
  | .next t => t.response.map fun x => (x.status, x.value.toNat)
  | _ => none

/-- A channel of an outcome, seen through a function; none where the machine stops. -/
def seen {α : Type} (r : Result) (ch : ChanId) (f : Chan → α) : Option α :=
  match r with
  | .next t => some (f (t.chan ch))
  | _ => none

/-- The example table of 95_test_vectors.md. -/
def exampleTable : SymbolTable := ⟨0x00448020, 0x00248040, 0x0FA00000, 0x00008000, 0x00008000⟩

/-- Channel 0 of the vectors: pulse-train, the constants of E1, one buffer cell holding 0xB4. -/
def fresh : Chan :=
  { Chan.reset with
    cfg := { Cfg.reset with tickPs := 12500, t0hNs := 400, t0lNs := 850, t1hNs := 800, t1lNs := 450, resetNs := 50000,
                            pin := 2, bufLen := 1 }
    ibuf := [(0, 0xB4)] }

/-- The same, bound and built. -/
def pulse : Chan := { fresh with bound := true, built := true, tset := tsetFull, table := exampleTable }

/-- Channel 1 of the vectors: byte-serial, bound and built with the example byte patterns. -/
def serial : Chan :=
  { Chan.reset with
    cfg := { Cfg.reset with transportKind := .byte, periphId := 1, pin := 5, lineBits := 10, dataRate := 800000,
                            bufLen := 1 }
    bound := true, built := true, tset := tsetFull, table := ⟨0xFC, 0xC0, 0, 0, 0⟩, ibuf := [(0, 0xB4)] }

/-- The machine with two given channels. -/
def two (a b : Chan) : State := { State.reset with chans := [a, b] }

/-- Both channels ready. -/
def ready : State := two pulse serial

/-- Both channels right after an accepted RENDER. -/
def armed : State :=
  two { pulse with state := .armed, curActive := true, ptq := [0x00248040, 0x0FA00000] }
    { serial with state := .armed, curActive := true, intEn := true }

/-- The interrupt context. -/
def inInterrupt (s : State) : State := { s with context := .interrupt }

/-! ## Results of the vectors -/

/-- C-1, C-12, C-6: values just outside and just inside the legal ranges. -/
theorem test_cfgWrite_ranges :
    answer (exec (.cfgWrite 0 0x08 257) ready) = some (.rejectRange, 0) ∧
    answer (exec (.cfgWrite 0 0x02 40) ready) = some (.rejectRange, 0) ∧
    answer (exec (.cfgWrite 0 0x02 39) ready) = some (.ok, 0) ∧
    answer (exec (.cfgWrite 0 0x1A 0x0003FFFF) ready) = some (.ok, 0) ∧
    answer (exec (.cfgWrite 0 0x1A 0x00040000) ready) = some (.rejectRange, 0) := by decide +kernel

/-- C-14, C-15, C-16: the side effects of the classes T, B and K. -/
theorem test_cfgWrite_side_effects :
    seen (exec (.cfgWrite 0 0x11 400) ready) 0 (fun c => (c.built, c.bound)) = some (false, true) ∧
    seen (exec (.cfgWrite 0 0x02 7) ready) 0 (fun c => (c.built, c.bound)) = some (true, false) ∧
    seen (exec (.cfgWrite 1 0x00 1) ready) 1 (fun c => (c.tset, c.built, c.bound)) = some (0, false, false) := by
  decide +kernel

/-- V-R: BRIGHTNESS, WIDTH and an unknown field after reset. -/
theorem test_cfgRead_reset :
    answer (exec (.cfgRead 0 0x08) State.reset) = some (.ok, 256) ∧
    answer (exec (.cfgRead 0 0x46) State.reset) = some (.ok, 8) ∧
    answer (exec (.cfgRead 0 0x21) State.reset) = some (.rejectRange, 0) := by decide +kernel

/-- C-19, C-22: the byte written is read back. -/
theorem test_bufWrite_bufRead :
    (match exec (.bufWrite 0 0 0x55) ready with
     | .next t => answer (exec (.bufRead 0 0) t)
     | _ => none) = some (.ok, 0x55) := by decide +kernel

/-- C-20, C-24: the range check comes before the busy check. -/
theorem test_bufWrite_range :
    answer (exec (.bufWrite 0 1 0xB4) ready) = some (.rejectRange, 0) ∧
    answer (exec (.bufWrite 1 1 0) armed) = some (.rejectRange, 0) := by decide +kernel

/-- T-1: the table of the illustrative chipset. -/
theorem test_tableBuild_example :
    seen (exec (.tableBuild 0) (two fresh serial)) 0 (fun c => (c.table, c.built)) = some (exampleTable, true) := by
  decide +kernel

/-- T-10, T-6, T-7: 32767 ticks fit, 40000 do not, and a gap of 0 ticks does not. -/
theorem test_tableBuild_bounds :
    seen (exec (.tableBuild 0) (two { fresh with cfg := { fresh.cfg with t0hNs := 409599 } } serial)) 0
      (fun c => c.table.zeroBit) = some 0x0044FFFF ∧
    answer (exec (.tableBuild 0) (two { fresh with cfg := { fresh.cfg with resetNs := 500000 } } serial)) =
      some (.tableErr, 0x0204) ∧
    answer (exec (.tableBuild 0) (two { fresh with cfg := { fresh.cfg with resetNs := 0 } } serial)) =
      some (.tableErr, 0x0500) := by decide +kernel

/-- T-17, T-19: a required pulse-train symbol may not be NULL; a byte pattern may be 0. -/
theorem test_setSymbol_null :
    answer (exec (.setSymbol 0 .zeroBit 0x00008000) ready) = some (.rejectRange, 0) ∧
    answer (exec (.setSymbol 0 .startBit 0x00008000) ready) = some (.ok, 0) ∧
    answer (exec (.setSymbol 1 .zeroBit 0) ready) = some (.ok, 0) := by decide +kernel

/-- T-16. -/
theorem test_lookup :
    answer (exec (.lookup 0 .interframeGap) ready) = some (.ok, 0x0FA00000) ∧
    answer (exec (.lookup 0 .interframeGap) State.reset) = some (.notReady, 0) := by decide +kernel

/-- X-7, X-1: the baud rate and the two Bind events. -/
theorem test_begin_binds :
    seen (exec (.beginCh 1) (two fresh { serial with bound := false })) 1 (fun c => (c.baud, c.uartTrace)) =
      some (8000000, [.bind 8000000 8 1 false]) ∧
    seen (exec (.beginCh 0) (two fresh serial)) 0 (fun c => (c.bound, c.ptTrace)) = some (true, [.bind false]) := by
  decide +kernel

/-- X-2, X-4, X-5: kind mismatch, claimed pin, no baud rate. -/
theorem test_begin_fails :
    answer (exec (.beginCh 0) (two { fresh with cfg := { fresh.cfg with periphId := 1 } } Chan.reset)) =
      some (.hwUnavailable, 2) ∧
    answer (exec (.beginCh 1) (two pulse { serial with cfg := { serial.cfg with pin := 2 } })) =
      some (.hwUnavailable, 1) ∧
    answer (exec (.beginCh 1) (two pulse { serial with cfg := { serial.cfg with lineBits := 0 } })) =
      some (.hwUnavailable, 3) := by decide +kernel

/-- P-1, R147: the nine items of 0xB4. -/
theorem test_render_pulse :
    seen (exec (.render 0) ready) 0 (fun c => (c.ptq, c.state)) =
      some ([0x00248040, 0x00448020, 0x00248040, 0x00248040, 0x00448020, 0x00248040, 0x00448020, 0x00448020,
             0x0FA00000], .armed) := by decide +kernel

/-- E3: at 10000 of 25000 microseconds the pacer denies, at 25000 it permits. -/
theorem test_render_pacer :
    answer (exec (.render 0)
      { two { pulse with minFrameUs := 25000, started := true } serial with timeUs := 10000 }) = some (.ok, 0) ∧
    answer (exec (.render 0)
      { two { pulse with minFrameUs := 25000, started := true } serial with timeUs := 25000 }) = some (.ok, 1) := by
  decide +kernel

/-- X-13. -/
theorem test_stop :
    seen (exec (.stop 1) (two pulse { serial with state := .streaming, curActive := true, intEn := true, fifo := [1, 2] }))
      1 (fun c => (c.state, c.fifo, c.intEn, c.framesDone)) = some (.idle, [], false, 0) := by decide +kernel

/-- X-15, X-16: a pulse-train channel does not pause; a byte-serial one does. -/
theorem test_pause :
    seen (exec (.pause 0) armed) 0 (·.state) = some .armed ∧
    seen (exec (.pause 1) armed) 1 (fun c => (c.state, c.intEn)) = some (.paused, false) := by decide +kernel

/-- X-14, X-16: an idle channel does not resume; a paused one streams. -/
theorem test_resume :
    seen (exec (.resume 1) ready) 1 (fun c => (c.state, c.intEn)) = some (.idle, false) ∧
    seen (exec (.resume 1) (two pulse { serial with state := .paused, curActive := true })) 1
      (fun c => (c.state, c.intEn)) = some (.streaming, true) := by decide +kernel

/-- X-20: the regenerated gap replaces one that SET_SYMBOL wrote (R213). -/
theorem test_setMinFrame :
    seen (exec (.setMinFrame 0 25000) (two { pulse with table := { exampleTable with interframeGap := 1 } } serial)) 0
      (fun c => (c.minFrameUs, c.table.interframeGap)) = some (25000, 0x0FA00000) := by decide +kernel

/-- X-18, X-22. -/
theorem test_setWidth :
    answer (exec (.setWidth 0 0) ready) = some (.rejectRange, 0) ∧
    answer (exec (.setWidth 0 9) ready) = some (.rejectRange, 0) ∧
    seen (exec (.setWidth 0 4) ready) 0 (·.width) = some 4 ∧
    seen (exec (.setWidth 0 4) armed) 0 (fun c => (c.width, c.err)) = some (8, 1) := by decide +kernel

/-- E2, R162: the eight bytes of 0xB4, and the frame's end in the same step. -/
theorem test_isrFill :
    seen (exec (.isrFill 1) (inInterrupt armed)) 1 (fun c => (c.fifo, c.state, c.intEn, c.framesDone)) =
      some ([0xC0, 0xFC, 0xC0, 0xC0, 0xFC, 0xC0, 0xFC, 0xFC], .idle, false, 1) := by decide +kernel

/-- D-14 to D-17: the host's issue of the internal commands. -/
theorem test_internal_from_host :
    answer (exec (.isrFill 1) ready) = some (.context, 0) ∧ answer (exec (.pumpStart 0) ready) = some (.context, 0) ∧
    answer (exec (.pumpNext 0) ready) = some (.context, 0) ∧
    answer (exec (.pacerRecord 0) ready) = some (.context, 0) := by decide +kernel

/-- F-5: the pairs of a prepend byte and a cell, and past the end. -/
theorem test_pumpNext :
    let c : Chan :=
      { fresh with cfg := { fresh.cfg with preLen := 1, preBytes := 0xAA, brightness := 128 }, ibuf := [(0, 0x10)] }
    answer (exec (.pumpNext 0) (inInterrupt (two c serial))) = some (.ok, 0x000100AA) ∧
    answer (exec (.pumpNext 0) (inInterrupt (two { c with curOffset := 1 } serial))) = some (.ok, 0x00008010) ∧
    seen (exec (.pumpNext 0) (inInterrupt (two { c with curOffset := 2 } serial))) 0 (fun d => (d.curOffset, d.err)) =
      some (2, 2) := by decide +kernel

/-- F-6 at length 1. -/
theorem test_pumpMore :
    answer (exec (.pumpMore 0) ready) = some (.ok, 1) ∧
    answer (exec (.pumpMore 0) (two { pulse with curOffset := 1 } serial)) = some (.ok, 0) := by decide +kernel

/-- F-8: the wrap-around difference 512 against 512 and 513. -/
theorem test_pacerQuery :
    let c (m : Word) : Chan := { pulse with started := true, lastStartUs := 0xFFFFFF00, minFrameUs := m }
    answer (exec (.pacerQuery 0) { two (c 512) serial with timeUs := 0x100 }) = some (.ok, 1) ∧
    answer (exec (.pacerQuery 0) { two (c 513) serial with timeUs := 0x100 }) = some (.ok, 0) := by decide +kernel

/-- R166, R171 in the interrupt context. -/
theorem test_pumpStart_pacerRecord :
    seen (exec (.pumpStart 0) (inInterrupt (two { pulse with curOffset := 7 } serial))) 0 (·.curOffset) = some 0 ∧
    seen (exec (.pacerRecord 0) { inInterrupt ready with timeUs := 26000 }) 0 (fun c => (c.lastStartUs, c.started)) =
      some (26000, true) := by decide +kernel

/-- R140: the first item of R147. -/
theorem test_pulse_step :
    seen (step { armed with schedule := [.pt 0] }) 0 (fun c => (c.ptTrace, c.line, c.state, c.ptq)) =
      some ([.seg true 64, .seg false 36], false, .streaming, [0x0FA00000]) := by decide +kernel

/-- F-10: the timebase wraps. -/
theorem test_clock_wraps :
    (match step { ready with schedule := [.clock], timeUs := 0xFFFFFFFF } with
     | .next t => some t.timeUs
     | _ => none) = some 0 := by decide +kernel

/-- F-1: the frame image with group preambles, and its length. -/
theorem test_frame_image :
    let c : Chan :=
      { fresh with cfg := { fresh.cfg with preLen := 2, preBytes := 0xBBAA, groupSize := 3, grpLen := 1, grpBytes := 0x55,
                                           appLen := 1, appBytes := 0xEE, bufLen := 4, brightness := 128 },
                   ibuf := [(0, 0x10), (1, 0x20), (2, 0x30), (3, 0x40)] }
    scaledFrame Params.specExample 0 c = [0xAA, 0xBB, 0x55, 0x08, 0x10, 0x18, 0x55, 0x20, 0xEE] ∧
    frameLen c.cfg = 9 := by decide +kernel

/-- R88: DESC, PAT and BIASW at their bounds and just past them; the numbers by R76, R77 and R79. -/
theorem test_asm_macros :
    asmDesc 32767 1 0 0 = some 0x0000FFFF ∧ asmDesc 32768 0 0 0 = none ∧ asmDesc 0 0 0 2 = none ∧
    asmPat [0xC0, 0xFF] = some 0x0000FFC0 ∧ asmPat [256] = none ∧
    asmBiasw [1, -1, 0, 0, 0, 0, 0, 0, -1] = some 0x0003000D ∧ asmBiasw [2, 0, 0, 0, 0, 0, 0, 0, 0] = none ∧
    asmBiasw [0] = none := by decide

/-- R87: SET_GAP of a gap that no descriptor holds is refused, and BUF_FILL past the last address (log 23). -/
theorem test_pseudo :
    pseudoSetGap 0 4000 0 = some [.setSymbol 0 .interframeGap 0x0FA00000] ∧ pseudoSetGap 0 32768 0 = none ∧
    pseudoBufFill 1 0xFFFE [7, 8] = some [.bufWrite 1 0xFFFE 7, .bufWrite 1 0xFFFF 8] ∧
    pseudoBufFill 1 0xFFFF [7, 8] = none := by decide

/-- The word of a command given as one number is what the next step runs (D-3, D-6). -/
theorem test_withFetchWord :
    answer (step (State.reset.withFetchWord 32 0x01000045)) = some (.rejectRo, 0) ∧
    answer (step (State.reset.withFetchWord 32 0x15000000)) = some (.illegal, 0) := by decide +kernel

/-! ## Witnesses: the hypotheses of the statements can be met -/

/-- DecodeOfEncodeIsIdentity, at the last channel of 16. -/
theorem test_witness_roundTrip : Instr.wellFormed 16 (.setSymbol 15 .stopBit 0xFFFFFFFF) = true := by decide

/-- DecodedWordsAreTheAssemblersWords, one word for each clause. -/
theorem test_witness_decodedWords :
    decode 2 0x01000010 0xFFFFFFFF = .ok (.cfgWrite 0 0x10 0xFFFFFFFF) ∧
    decode 2 0x06140000 5 = .ok (.setSymbol 1 .stopBit 5) ∧ decode 2 0x0D000000 5 = .ok (.setMinFrame 0 5) ∧
    decode 2 0x0E000000 5 = .ok (.setWidth 0 5) ∧ decode 2 0x0300FFFF 0x1FF = .ok (.bufWrite 0 0xFFFF 0xFF) := by
  decide

/-- UndecodedWordsAnswerIllegal, on each reason. -/
theorem test_witness_undecoded :
    decode ready.nCh 0x15000000 0 = .error .reservedOpcode ∧ decode ready.nCh 0x01010005 0 = .error .mustBeZero ∧
    decode ready.nCh 0x07050000 0 = .error .reservedSymbol ∧ decode ready.nCh 0x0F200000 0 = .error .noSuchChannel := by
  decide

/-- A state whose next step is the host's RENDER of channel 0. -/
def hostNext : State := { ready with commands := [(0x09000000, 0)], schedule := [.host] }

/-- StepRunsTheDecodedCommand and HostStepGivesExactlyOneResponse. -/
theorem test_witness_hostStep :
    nextMove hostNext = (.host, { hostNext with schedule := [] }) ∧
    decode hostNext.nCh 0x09000000 0 = .ok (.render 0) ∧
    answer (exec (.render 0) { hostNext with schedule := [], commands := [], context := .host }) = some (.ok, 1) ∧
    answer (step hostNext) = some (.ok, 1) := by decide +kernel

/-- StepRunsTheDecodedCommand, the clause about a fault: a buffer longer than the RAM, which no run reaches. -/
theorem test_witness_hostStep_fault :
    (exec (.bufRead 0 512) (two { fresh with cfg := { fresh.cfg with bufLen := 600 } } serial) matches .fault .noSuchCell) =
      true := by decide +kernel

/-- EnabledAgentsMoveFreelyAndFairly, for every kind of agent. -/
theorem test_witness_enabled :
    enabled hostNext .host = true ∧ enabled armed (.isr 1) = true ∧ enabled armed (.pt 0) = true ∧
    enabled (two pulse { serial with fifo := [1] }) (.uart 1) = true ∧ enabled ready .clock = true := by decide +kernel

/-- The run from reset in which, with nothing to issue, CLOCK alone has a step. -/
def resetRun (n : Nat) : State :=
  { State.reset with timeUs := BitVec.ofNat 32 n, turn := n, drawn := if n = 0 then [] else List.replicate 8 n }

/-- EnabledAgentsMoveFreelyAndFairly, the clause on endless runs: a run, and an agent that stays enabled in it. -/
theorem test_witness_run : IsRun resetRun ∧ ∀ m, enabled (resetRun m) .clock = true := by
  refine ⟨fun n => ?_, fun _ => rfl⟩
  have h : step (resetRun n) =
      .next { resetRun n with timeUs := BitVec.ofNat 32 n + 1, turn := n + 1, drawn := List.replicate 8 (n + 1) } := rfl
  rw [h, show BitVec.ofNat 32 n + 1 = BitVec.ofNat 32 (n + 1) by simp [BitVec.ofNat_add]]
  rfl

/-- A host that polls for ever: the state after `n` steps of a machine just reset whose host repeats NOP. -/
def pollRun : Nat → State
  | 0 => { State.reset with onward := .repeats [(0, 0)] }
  | n + 1 =>
    match step (pollRun n) with
    | .next t => t
    | _ => pollRun n

/-- What holds of every state of `pollRun`. -/
def Polling (s : State) : Prop :=
  s.onward = .repeats [(0, 0)] ∧ s.commands = [] ∧ s.chans = List.replicate 2 Chan.reset

/-- Such a state has a step, the host's or CLOCK's, to such a state. -/
theorem polling_step {s : State} (h : Polling s) : ∃ t, step s = .next t ∧ Polling t := by
  obtain ⟨ho, hc, hs⟩ := h
  have idle : ∀ ch : ChanId, (List.replicate 2 Chan.reset).getD ch.toNat Chan.reset = Chan.reset := by decide
  have chan : ∀ ch, s.chan ch = Chan.reset := fun ch => by rw [State.chan, hs]; exact idle ch
  have en := nextMove_enabled s
  have fr := nextMove_frame s
  have st : step s = agentStep (nextMove s).1 (nextMove s).2 := rfl
  rw [fr, (nextMove_stream_of_repeats ho).1, (nextMove_stream_of_repeats ho).2, hc, ho] at st
  cases ha : (nextMove s).1 with
  | clock => rw [ha] at st; exact ⟨_, st, rfl, rfl, hs⟩
  | host =>
    rw [ha] at st
    simp only [agentStep, hostStep, State.takeCommand] at st
    exact ⟨_, st, rfl, rfl, hs⟩
  | isr ch => rw [ha] at en; simp [enabled, chan, irqPending, Chan.reset] at en
  | pt ch => rw [ha] at en; simp [enabled, chan, Chan.reset] at en
  | uart ch => rw [ha] at en; simp [enabled, chan, Chan.reset] at en

/-- EnabledAgentsMoveFreelyAndFairly, the clause on a host that goes on for ever. -/
theorem test_witness_pollRun : IsRun pollRun ∧ (pollRun 0).onward = .repeats [(0, 0)] := by
  have inv : ∀ n, Polling (pollRun n) := by
    intro n
    induction n with
    | zero => exact ⟨rfl, rfl, rfl⟩
    | succ n ih =>
      obtain ⟨t, ht, hp⟩ := polling_step ih
      simpa only [pollRun, ht] using hp
  refine ⟨fun n => ?_, rfl⟩
  obtain ⟨t, ht, -⟩ := polling_step (inv n)
  simp only [pollRun, ht]

/-- HostStepGivesExactlyOneResponse, the clauses on the stream: past its listed commands a host repeats its program,
and stops. -/
theorem test_witness_stream :
    answer (step { ready with onward := .repeats [(0x0F000000, 0), (0, 0)], schedule := [.host] }) = some (.context, 0) ∧
    (match step { ready with onward := .repeats [(0x0F000000, 0), (0, 0)], schedule := [.host] } with
     | .next t => t.commands == [(0, 0)] && t.onward == .repeats [(0x0F000000, 0), (0, 0)]
     | _ => false) = true ∧
    ready.commands = [] ∧ ready.onward = .stops ∧ ({ ready with onward := .draws 3 } : State).onward = .draws 3 := by
  decide +kernel

/-- NopWordsAnswerOkAndChangeNothing. -/
theorem test_witness_nop : opcField 0x00FFFFFF = 0 := by decide

/-- CfgWriteFollowsItsChecksAndSideEffects: channel and parameters, and each clause at the ends of its ids. -/
theorem test_witness_cfgWrite :
    ((0 : ChanId).toNat < ready.nCh ∧ (1 : ChanId).toNat < ready.nCh ∧ ready.params.wf) ∧
    (fieldOfId 0x40 = .status .state ∧ fieldOfId 0x53 = .status .line ∧ fieldOfId 0x60 = .status .timeUs ∧
      fieldOfId 0x65 = .status .bufMax) ∧
    (fieldOfId 0x21 = .unknown ∧ fieldOfId 0x3F = .unknown ∧ fieldOfId 0x54 = .unknown ∧ fieldOfId 0x5F = .unknown ∧
      fieldOfId 0x66 = .unknown ∧ fieldOfId 0xFFFF = .unknown) ∧
    (fieldOfId 0x00 = .config .transportKind ∧ fieldOfId 0x20 = .config .grpBytes ∧ (armed.chan 0).state ≠ .idle) ∧
    ((ready.chan 0).state = .idle ∧ legalValue ready.params .transportKind 2 = false ∧
      legalValue ready.params .transportKind 1 = true ∧ legalValue ready.params .grpBytes 0xFFFFFFFF = true) := by
  decide +kernel

/-- CfgWriteAcceptsExactlyTheLegalValues: both clauses at the ends of the ids and of a range. -/
theorem test_witness_legalValues :
    (ready.chan 0).state = .idle ∧
    legalValue ready.params .bpb 0 = false ∧ legalValue ready.params .bpb 1 = true ∧
    legalValue ready.params .bpb 4 = true ∧ legalValue ready.params .bpb 5 = false ∧
    legalValue ready.params .bias 2 = false ∧ legalValue ready.params .bias 0x3FFFF = true ∧
    legalValue ready.params .bufLen 512 = true ∧ legalValue ready.params .bufLen 513 = false := by decide +kernel

/-- CfgReadReturnsTheField and StatusFieldsReadTheState: a field of each class, and none. -/
theorem test_witness_cfgRead :
    (1 : ChanId).toNat < ready.nCh ∧ fieldOfId 0x20 = .config .grpBytes ∧ fieldOfId 0x52 = .status .frameLen ∧
    fieldOfId 0x21 = .unknown := by decide +kernel

/-- BufWriteStoresOneByte and BufReadReturnsTheCell: the last cell below BUF_LEN and the first past it, idle and busy,
written and not. -/
theorem test_witness_buffer :
    (ready.chan 0).cfg.bufLen.toNat ≤ (1 : Imm16).toNat ∧ (0 : Imm16).toNat < (ready.chan 0).cfg.bufLen.toNat ∧
    (armed.chan 0).state ≠ .idle ∧ (0 : Imm16).toNat < (armed.chan 0).cfg.bufLen.toNat ∧ (ready.chan 0).state = .idle ∧
    (ready.chan 0).cfg.bufLen.toNat ≤ ready.params.bufMax ∧ memWf (ready.chan 0).ibuf = true ∧
    memFind (ready.chan 0).ibuf 1 = none := by decide +kernel

/-- TableBuildComputesThePulseEntries: the nine constants, the gap and the required symbols of T-1. -/
theorem test_witness_tableBuild :
    fresh.state = .idle ∧ fresh.cfg.transportKind = .pulse ∧ fresh.cfg.tickPs ≠ 0 ∧
    (∀ i < 9, constantValid fresh.cfg i = true) ∧ gapFor Params.specExample fresh.cfg fresh.minFrameUs = 4000 ∧
    constantTicks fresh.cfg 0 = 32 ∧ constantTicks fresh.cfg 2 = 64 := by decide +kernel

/-- A change of the constants of `fresh`. -/
def constants (t0h t1h t1l reset : Word) (bias : BitVec 18) : Chan :=
  { fresh with cfg := { fresh.cfg with t0hNs := t0h, t0lNs := t0h, t1hNs := t1h, t1lNs := t1l, resetNs := reset,
                                       bias := bias } }

/-- TableBuildReportsTheFirstFailure: every clause, the constants at the first and the last (T-4 to T-9). -/
theorem test_witness_tableBuild_failures :
    answer (exec (.tableBuild 0) State.reset) = some (.tableErr, 0x0100) ∧
    answer (exec (.tableBuild 0) (two (constants 0 800 450 50000 0x00003) serial)) = some (.tableErr, 0x0200) ∧
    answer (exec (.tableBuild 0) (two (constants 400 800 450 50000 0x30000) serial)) = some (.tableErr, 0x0208) ∧
    answer (exec (.tableBuild 0) (two (constants 400 800 450 0 0) serial)) = some (.tableErr, 0x0500) ∧
    answer (exec (.tableBuild 0) (two (constants 0 0 0 50000 0) serial)) = some (.tableErr, 0x0300) ∧
    answer (exec (.tableBuild 0) (two (constants 400 0 0 50000 0) serial)) = some (.tableErr, 0x0301) := by
  decide +kernel

/-- TableBuildChecksTheByteSymbols: all set; the first and the last unset (T-18). -/
theorem test_witness_tableBuild_byte :
    (ready.chan 1).cfg.transportKind = .byte ∧ (∀ i < 5, (ready.chan 1).tset.getLsbD i = true) ∧
    answer (exec (.tableBuild 1) (two pulse { serial with tset := 0b11110 })) = some (.tableErr, 0x0400) ∧
    answer (exec (.tableBuild 1) (two pulse { serial with tset := 0b00011 })) = some (.tableErr, 0x0402) ∧
    answer (exec (.tableBuild 1) (two pulse { serial with tset := 0b01111 })) = some (.tableErr, 0x0404) := by
  decide +kernel

/-- SetSymbolReplacesOneEntry: busy, refused and accepted, the words at the edge of NULL. -/
theorem test_witness_setSymbol :
    answer (exec (.setSymbol 0 .oneBit 1) armed) = some (.rejectBusy, 0) ∧
    answer (exec (.setSymbol 0 .interframeGap 0x80008000) ready) = some (.rejectRange, 0) ∧
    answer (exec (.setSymbol 0 .interframeGap 1) ready) = some (.ok, 0) ∧
    answer (exec (.setSymbol 0 .stopBit 0) ready) = some (.ok, 0) := by decide +kernel

/-- LookupReturnsTheEntry: both clauses. -/
theorem test_witness_lookup : (ready.chan 0).built = true ∧ (State.reset.chan 0).built = false := by decide +kernel

/-- DescriptorPacksItsFourFields at the largest durations. -/
theorem test_witness_descriptor : desc 32767 true 32767 true = 0xFFFFFFFF := by decide

/-- BeginClaimsThePeripheral: every clause. -/
theorem test_witness_begin :
    ready.params.wf ∧ ready.nCh ≤ 16 ∧
    answer (exec (.beginCh 0) armed) = some (.rejectBusy, 0) ∧
    answer (exec (.beginCh 1) (two pulse { serial with cfg := { serial.cfg with periphId := 0 } })) =
      some (.hwUnavailable, 1) ∧
    answer (exec (.beginCh 0) (two { pulse with cfg := { pulse.cfg with periphId := 1 } } Chan.reset)) =
      some (.hwUnavailable, 2) ∧
    answer (exec (.beginCh 1) { two pulse serial with params := { Params.specExample with baudMax := 7999999 } }) =
      some (.hwUnavailable, 3) ∧
    answer (exec (.beginCh 1) { two pulse serial with params := { Params.specExample with baudMax := 8000000 } }) =
      some (.ok, 0) ∧
    answer (exec (.beginCh 0) ready) = some (.ok, 0) := by decide +kernel

/-- RenderQueuesThePulseFrame: a frame that just fits the queue, the pacer at its boundary; and an empty sequence, on a
table that no run builds. -/
theorem test_witness_renderPulse :
    answer (exec (.render 0)
      { two { pulse with started := true, minFrameUs := 5 } serial with
        timeUs := 5, params := { Params.specExample with ptDepth := 9 } }) = some (.ok, 1) ∧
    (frameItems Params.specExample 0 pulse).length = 9 ∧ pulse.cfg.bufLen.toNat ≤ Params.specExample.bufMax ∧
    frameItems Params.specExample 0
      { pulse with table := ⟨1, 2, 0, 0, 0⟩, cfg := { pulse.cfg with bufLen := 0 } } = [] := by decide +kernel

/-- RenderArmsTheByteChannel. -/
theorem test_witness_renderByte :
    (ready.chan 1).bound = true ∧ (ready.chan 1).built = true ∧ (ready.chan 1).state = .idle ∧
    (ready.chan 1).started = false ∧ (ready.chan 1).cfg.transportKind = .byte := by decide +kernel

/-- RenderRefusesInOrder and RenderWithValueZeroLeavesNoTrace: every clause, the frame one item too long. -/
theorem test_witness_renderRefuses :
    answer (exec (.render 0) (two { pulse with built := false } serial)) = some (.notReady, 0) ∧
    answer (exec (.render 0) armed) = some (.ok, 0) ∧
    answer (exec (.render 0) { two { pulse with started := true, minFrameUs := 5 } serial with timeUs := 4 }) =
      some (.ok, 0) ∧
    answer (exec (.render 0) { ready with params := { Params.specExample with ptDepth := 8 } }) =
      some (.oversize, 0) := by decide +kernel

/-- FramesStartOnlyWhenThePacerPermits, with an earlier start and without. -/
theorem test_witness_pacer :
    answer (exec (.render 1) ready) = some (.ok, 1) ∧
    answer (exec (.render 1) (two pulse { serial with started := true })) = some (.ok, 1) := by decide +kernel

/-- StopForcesIdle, PauseDisablesTheInterrupt and ResumeEnablesTheInterrupt: every clause. -/
theorem test_witness_control :
    (1 : ChanId).toNat < armed.nCh ∧ (armed.chan 1).cfg.transportKind = .byte ∧ (armed.chan 1).state = .armed ∧
    (armed.chan 0).cfg.transportKind = .pulse ∧
    ((two pulse { serial with state := .paused }).chan 1).state = .paused := by decide +kernel

/-- SetMinFrameSetsThePacerAndTheGap: every clause; 4000 reset ticks, and gaps of 0, 1 and 32767 ticks. -/
theorem test_witness_setMinFrame :
    constantTicks pulse.cfg 4 = 4000 ∧ ticksOf pulse.cfg.tickPs pulse.cfg.resetNs 0 = 4000 ∧
    pulse.cfg.bias.getLsbD 8 = false ∧
    answer (exec (.setMinFrame 0 1) armed) = some (.rejectBusy, 0) ∧
    answer (exec (.setMinFrame 0 1) (two { pulse with cfg := { pulse.cfg with resetNs := 0 } } serial)) =
      some (.rejectRange, 0) ∧
    answer (exec (.setMinFrame 0 1) (two { pulse with cfg := { pulse.cfg with resetNs := 13 } } serial)) =
      some (.ok, 0) ∧
    answer (exec (.setMinFrame 0 1) (two { pulse with cfg := { pulse.cfg with resetNs := 409599 } } serial)) =
      some (.ok, 0) ∧
    answer (exec (.setMinFrame 1 1) ready) = some (.ok, 0) := by decide +kernel

/-- SetWidthTakesOneToEight: every clause at its bounds. -/
theorem test_witness_setWidth :
    answer (exec (.setWidth 1 1) armed) = some (.rejectBusy, 0) ∧ answer (exec (.setWidth 1 0) ready) = some (.rejectRange, 0) ∧
    answer (exec (.setWidth 1 9) ready) = some (.rejectRange, 0) ∧ answer (exec (.setWidth 1 1) ready) = some (.ok, 0) ∧
    answer (exec (.setWidth 1 8) ready) = some (.ok, 0) := by decide +kernel

/-- BusyChannelRefusesEveryChange: each command on a busy channel, the last field id and the last address. -/
theorem test_witness_busy :
    (armed.chan 0).state ≠ .idle ∧
    [Instr.tableBuild 0, .beginCh 0, .setSymbol 0 .oneBit 1, .setMinFrame 0 0, .setWidth 0 4, .cfgWrite 0 0x20 0,
     .bufWrite 0 0 0].all (fun i => answer (exec i armed) == some (.rejectBusy, 0)) = true := by decide +kernel

/-- PumpMoreComparesCursorAndLength: both clauses where they meet. -/
theorem test_witness_pumpMore :
    (frameImage 0 pulse).length = 1 ∧ pulse.curOffset.toNat = 0 ∧
    (frameImage 0 { pulse with curOffset := 1 }).length = 1 := by decide +kernel

/-- PumpNextReadsTheImage: the last position, the first past the end, and the host's context. -/
theorem test_witness_pumpNext :
    (inInterrupt ready).context = .interrupt ∧ (frameImage 0 pulse)[pulse.curOffset.toNat]? = some (0xB4, 256) ∧
    pulse.cfg.bufLen.toNat ≤ ready.params.bufMax ∧ ready.context = .host ∧
    answer (exec (.pumpNext 0) (inInterrupt (two { pulse with curOffset := 1 } serial))) = some (.ok, 0x10000) := by
  decide +kernel

/-- PumpStartAndPacerRecordInTheInterruptContext and HostGetsContextForInternalCommands. -/
theorem test_witness_contexts :
    (1 : ChanId).toNat < ready.nCh ∧ (inInterrupt ready).context = .interrupt ∧ ready.context = .host := by
  decide +kernel

/-- PacerQueryComparesTheDifference: both clauses where they meet (F-8). -/
theorem test_witness_pacerQuery :
    let s (m : Word) : State := { two { pulse with started := true, minFrameUs := m } serial with timeUs := 25000 }
    answer (exec (.pacerQuery 0) (s 25000)) = some (.ok, 1) ∧ answer (exec (.pacerQuery 0) (s 25001)) = some (.ok, 0) := by
  decide +kernel

/-- ScaleIsUnityAt256 at its largest multiplier, and F-7. -/
theorem test_witness_scale :
    (256 : Multiplier).toNat ≤ 256 ∧ scale .standard 200 128 = 100 ∧ scale .standard 1 255 = 0 := by decide +kernel

/-- IsrFillQueuesWholeValues: a pending interrupt in the interrupt context, and the host's context; a frame that ends
and, with two values and room for one, a frame that goes on. -/
theorem test_witness_isrFill :
    (inInterrupt armed).context = .interrupt ∧ irqPending (armed.chan 1) = true ∧
    (armed.chan 1).cfg.bufLen.toNat ≤ armed.params.bufMax ∧ armed.context = .host ∧
    (let cells : List Host.Cell := [(0, 0), (1, 0), (2, 0), (3, 0), (4, 0)]
     let c : Chan := { armed.chan 1 with cfg := { serial.cfg with bufLen := 5 }, ibuf := cells }
     let s : State := { two pulse c with params := { Params.specExample with fifoDepth := 32 } }
     seen (exec (.isrFill 1) (inInterrupt s)) 1 (fun d => (d.state, d.curOffset, d.fifo.length))) =
      some (.streaming, 4, 32) := by decide +kernel

/-- RefillNeitherOverrunsNorStalls: the largest value on the smallest FIFO. -/
theorem test_witness_refill :
    let c : Chan := { armed.chan 1 with cfg := { serial.cfg with bpb := 4 }, width := 8 }
    let s : State := inInterrupt { two pulse c with params := { Params.specExample with fifoDepth := 32 } }
    irqPending (s.chan 1) = true ∧ (s.chan 1).fifo = [] ∧ (s.chan 1).curOffset.toNat < (frameImage 1 (s.chan 1)).length ∧
    (s.chan 1).cfg.bpb.toNat ≤ 4 ∧ 32 ≤ s.params.fifoDepth ∧
    seen (exec (.isrFill 1) s) 1 (fun d => d.fifo.length) = some 32 := by decide +kernel

/-- InterruptRunsTheRefillAndReturns, the condition at the threshold: B-6, B-6b (8 and 7 bytes at FIFO_THRESH 8) and B-8
(one byte and none at FIFO_THRESH 0), and INT_EN clear. -/
theorem test_witness_irq :
    let s (thresh : BitVec 16) (n : Nat) (en : Bool) : State :=
      two pulse { armed.chan 1 with cfg := { serial.cfg with fifoThresh := thresh }, fifo := List.replicate n 0xC0, intEn := en }
    enabled (s 8 8 true) (.isr 1) = false ∧ enabled (s 8 7 true) (.isr 1) = true ∧ enabled (s 0 1 true) (.isr 1) = false ∧
    enabled (s 0 0 true) (.isr 1) = true ∧ enabled (s 8 0 false) (.isr 1) = false := by decide +kernel

/-- InterruptRunsTheRefillAndReturns, the step. -/
theorem test_witness_interrupt :
    irqPending (armed.chan 1) = true ∧
    (seen (exec (.isrFill 1) { armed with schedule := [], context := .interrupt }) 1 (·.state)).isSome = true ∧
    ({ armed with schedule := [Agent.isr 1] } : State).schedule = .isr 1 :: [] := by decide +kernel

/-- PulsePeripheralEmitsOneItem, with an item left and with the last, and LoadedQueueDrainsInOrder. -/
theorem test_witness_pulseStep :
    (armed.chan 0).ptq = 0x00248040 :: [0x0FA00000] ∧
    ((two { pulse with state := .armed, ptq := [0x0FA00000] } serial).chan 0).ptq = 0x0FA00000 :: [] ∧
    seen (stepN 2 { armed with schedule := List.replicate 2 (.pt 0) ++ [] }) 0 (fun c => (c.state, c.ptTrace)) =
      some (.idle, [.seg true 64, .seg false 36, .seg false 4000]) := by decide +kernel

/-- SerialPeripheralEmitsOneByte (B-12). -/
theorem test_witness_serialStep :
    seen (step { two pulse { serial with fifo := [0xC0, 0xFC] } with schedule := [.uart 1] }) 1
      (fun c => (c.fifo, c.uartTrace)) = some ([0xFC], [.byte 0xC0]) := by decide +kernel

/-- OnlyTheClockMovesTime: a step of another agent, and one of CLOCK. -/
theorem test_witness_time :
    (nextMove hostNext).1 = .host ∧ (step hostNext matches .next _) = true ∧
    (nextMove { ready with schedule := [.clock] }).1 = .clock ∧ (1 : ChanId).toNat < ready.nCh := by decide +kernel

/-- PulseFrameDecodesToItsBytes at width 8 and unity, and at width 1. -/
theorem test_witness_pulseDecode :
    pulse.table.oneBit ≠ pulse.table.zeroBit ∧ pulse.width = 8 ∧ pulse.cfg.brightness = 256 ∧
    1 ≤ ({ pulse with width := 1 } : Chan).width.toNat := by decide +kernel

/-- ByteStreamDemultiplexesToItsBytes: one pattern byte and four, and direct mode. -/
theorem test_witness_byteDecode :
    serial.cfg.xlatEn = true ∧ serial.cfg.bpb = 1 ∧ bytesOf serial.table.oneBit 1 ≠ bytesOf serial.table.zeroBit 1 ∧
    bytesOf serial.table.oneBit 4 ≠ bytesOf serial.table.zeroBit 4 ∧ serial.width = 8 ∧ serial.cfg.brightness = 256 ∧
    ({ serial.cfg with xlatEn := false } : Cfg).xlatEn = false := by decide +kernel

/-- ResetLeavesTheStatedValues and InvariantHoldsAtReset: 1 and 16 channels, the example parameters. -/
theorem test_witness_reset : (0 : ChanId).toNat < 1 ∧ (15 : ChanId).toNat < 16 ∧ Params.specExample.wf := by decide

/-- The invariant's clauses hold of a channel as reset leaves it. -/
theorem chanOk_reset : ChanOk Params.specExample Chan.reset where
  active := by decide
  intEn := by decide
  refilled := by decide
  inFrame := by decide
  paused := by decide
  pulseQueue := by decide
  unboundEmpty := by decide
  fifoFits := by decide
  ptqFits := by decide
  curBits := by decide
  kindMatches := by decide
  byteNoItems := by decide
  pulseNoBytes := by decide
  builtSet := by decide
  builtNotNull := by decide
  fieldsLegal := fun f => .inr rfl
  width := by decide
  cursor := by decide
  noOverread := by decide
  memory := by decide

/-- A state that the clock moves next. -/
def clockNext : State := { State.reset with schedule := [.clock] }

/-- EveryStepKeepsTheInvariant, EveryStepCompletes, StickyBitsStaySet, FrameStateMovesOnlyByTheTable and
RunsWhoseHostStopsEndQuiescent: a state that meets the invariant, is quiescent and takes a step. -/
theorem test_witness_invariant :
    Inv clockNext ∧ Quiescent clockNext ∧ step clockNext = .next { clockNext with timeUs := 1, schedule := [] } := by
  have each : ∀ ch : ChanId, ch.toNat < 2 → clockNext.chan ch = Chan.reset := by decide
  refine ⟨⟨by decide, by decide, rfl, fun ch h => ?_, fun a b ha hb _ h => ?_⟩, ⟨rfl, fun ch h => ?_⟩, rfl⟩
  · rw [each ch h]; exact chanOk_reset
  · rw [each a ha] at h; cases h
  · rw [each ch h]; exact ⟨rfl, rfl, rfl⟩

/-- RunsWhoseHostStopsEndQuiescent, the clause on endless runs: a run whose states meet the invariant and in which the
host never moves. -/
theorem test_witness_quiescence :
    IsRun resetRun ∧ (∀ n, Inv (resetRun n)) ∧ ∀ m, 0 ≤ m → (nextMove (resetRun m)).1 ≠ .host := by
  refine ⟨test_witness_run.1, fun n => ?_, fun m _ h => ?_⟩
  · have inv := test_witness_invariant.1
    exact ⟨inv.params, inv.channels, inv.context, inv.each, inv.claims⟩
  · have en := nextMove_enabled (resetRun m)
    rw [h] at en
    cases en

/-- The invariant's clauses hold of the pulse-train channel in a frame. -/
theorem chanOk_armedPulse : ChanOk Params.specExample (armed.chan 0) where
  active := by decide +kernel
  intEn := by decide +kernel
  refilled := by decide +kernel
  inFrame := by decide +kernel
  paused := by decide +kernel
  pulseQueue := by decide +kernel
  unboundEmpty := by decide +kernel
  fifoFits := by decide +kernel
  ptqFits := by decide +kernel
  curBits := by decide +kernel
  kindMatches := by decide +kernel
  byteNoItems := by decide +kernel
  pulseNoBytes := by decide +kernel
  builtSet := by decide +kernel
  builtNotNull := by decide +kernel
  fieldsLegal := fun f => by cases f <;> decide +kernel
  width := by decide +kernel
  cursor := by decide +kernel
  noOverread := by decide +kernel
  memory := by decide +kernel

/-- The invariant's clauses hold of the byte-serial channel in a frame. -/
theorem chanOk_armedSerial : ChanOk Params.specExample (armed.chan 1) where
  active := by decide +kernel
  intEn := by decide +kernel
  refilled := by decide +kernel
  inFrame := by decide +kernel
  paused := by decide +kernel
  pulseQueue := by decide +kernel
  unboundEmpty := by decide +kernel
  fifoFits := by decide +kernel
  ptqFits := by decide +kernel
  curBits := by decide +kernel
  kindMatches := by decide +kernel
  byteNoItems := by decide +kernel
  pulseNoBytes := by decide +kernel
  builtSet := by decide +kernel
  builtNotNull := by decide +kernel
  fieldsLegal := fun f => by cases f <;> decide +kernel
  width := by decide +kernel
  cursor := by decide +kernel
  noOverread := by decide +kernel
  memory := by decide +kernel

/-- EveryStepKeepsTheInvariant, FrameStateMovesOnlyByTheTable and the last clause of LookupReturnsTheEntry: both channels
in a frame, their tables built, an agent of each with a step. -/
theorem test_witness_invariant_inFrame :
    Inv armed ∧ (armed.chan 0).built = true ∧ enabled armed (.pt 0) = true ∧ enabled armed (.isr 1) = true := by
  have two_of : ∀ a : ChanId, a.toNat < 2 → a = 0 ∨ a = 1 := by decide
  refine ⟨⟨by decide, by decide, rfl, fun ch h => ?_, fun a b ha hb hne _ _ => ?_⟩, by decide +kernel⟩
  · rcases two_of ch h with rfl | rfl
    · exact chanOk_armedPulse
    · exact chanOk_armedSerial
  · rcases two_of a ha with rfl | rfl <;> rcases two_of b hb with rfl | rfl <;>
      first | exact absurd rfl hne | decide +kernel

/-- CommandsChangeOnlyTheirChannel and CommandsDependOnlyOnTheirChannel: two states that differ in channel 1 alone. -/
theorem test_witness_independence :
    (exec (.render 0) ready matches .next _) = true ∧ (Instr.render 0).channel = some 0 ∧
    (two pulse Chan.reset).chan 0 = ready.chan 0 ∧ (two pulse Chan.reset).nCh = ready.nCh ∧
    (two pulse Chan.reset).params = ready.params ∧ (two pulse Chan.reset).response = ready.response := by decide +kernel

/-- FrameDataIsConstantDuringAFrame: a refused change in a frame. -/
theorem test_witness_frameData :
    answer (step { armed with commands := [(0x01000008, 128)], schedule := [.host] }) = some (.rejectBusy, 0) ∧
    (armed.chan 0).state ≠ .idle := by decide +kernel

end Sys2Proof.Tests
end

section
/-! PROOF. The scope of 00_scope.md: what a host step does (R6, R16, R84), that every step of a state of the invariant
completes (R8), and which agent moves (R6, R7, R219). -/
namespace Sys2Proof.Machine

open Sys2Proof

/-! ## BUF_LEN within the RAM, and the loops that read it -/

/-- No channel's BUF_LEN exceeds the RAM (R22, R52): what the model's one fault rests on (log 11). -/
def BufFits (s : State) : Prop :=
  ∀ ch : ChanId, ch.toNat < s.nCh → (s.chan ch).cfg.bufLen.toNat ≤ s.params.bufMax

theorem ChanOk.bufLen_le {p : Params} {c : Chan} (h : ChanOk p c) : c.cfg.bufLen.toNat ≤ p.bufMax := by
  have hlt : c.cfg.bufLen.toNat < 2 ^ 17 := c.cfg.bufLen.isLt
  have hget : (cfgGet c.cfg .bufLen).toNat = c.cfg.bufLen.toNat := by
    simp only [cfgGet, BitVec.toNat_setWidth]
    omega
  rcases h.fieldsLegal .bufLen with legal | reset
  · simpa [legalValue, between, hget] using legal
  · have zero : c.cfg.bufLen.toNat = 0 := by rw [← hget, reset]; rfl
    omega

theorem Inv.bufFits {s : State} (h : Inv s) : BufFits s := fun ch hch => (h.each ch hch).bufLen_le

/-- BUF_LEN and the RAM's size are read off the channels and the parameters. -/
theorem BufFits.congr {s t : State} (h : BufFits s) (hc : t.chans = s.chans) (hp : t.params = s.params) : BufFits t := by
  intro ch hch
  simp only [State.nCh, State.chan, hc, hp] at hch ⊢
  exact h ch hch

theorem pumpNext_cfg {p : Params} {ch : ChanId} {c c' : Chan} {vm : Byte × Multiplier}
    (h : pumpNext p ch c = .ok (vm, c')) : c'.cfg = c.cfg := by rw [pumpNext_frame h]

theorem pumpNext_completes {p : Params} (ch : ChanId) {c : Chan} (hm : c.cfg.bufLen.toNat ≤ p.bufMax) :
    ∃ vm c', pumpNext p ch c = .ok (vm, c') := by
  cases hi : (frameImage ch c)[c.curOffset.toNat]? with
  | some vm => exact ⟨_, _, pumpNext_of_getElem hm hi⟩
  | none => exact ⟨_, _, pumpNext_of_length_le (List.getElem?_eq_none_iff.1 hi)⟩

theorem translateLoop_completes {p : Params} (ch : ChanId) (n : Nat) {c : Chan} (acc : List Word)
    (hm : c.cfg.bufLen.toNat ≤ p.bufMax) : ∃ r, translateLoop p ch n c acc = .ok r := by
  induction n generalizing c acc with
  | zero => exact ⟨_, rfl⟩
  | succ n ih =>
    obtain ⟨vm, c', hp⟩ := pumpNext_completes ch hm
    simp only [translateLoop, hp]
    split
    · exact ih _ (by rwa [pumpNext_cfg hp])
    · exact ⟨_, rfl⟩

theorem pulseSequence_completes {p : Params} (ch : ChanId) {c : Chan} (hm : c.cfg.bufLen.toNat ≤ p.bufMax) :
    ∃ r, pulseSequence p ch c = .ok r := by
  obtain ⟨r, hr⟩ := translateLoop_completes ch (frameLen c.cfg) (markerItems c.table.startBit) hm
  simp only [pulseSequence, hr]
  exact ⟨_, rfl⟩

theorem refillLoop_completes {p : Params} (ch : ChanId) (n : Nat) {c : Chan} (hm : c.cfg.bufLen.toNat ≤ p.bufMax) :
    ∃ c', refillLoop p ch n c = .ok c' := by
  induction n generalizing c with
  | zero => exact ⟨_, rfl⟩
  | succ n ih =>
    obtain ⟨vm, c', hp⟩ := pumpNext_completes ch hm
    simp only [refillLoop, hp]
    split
    · exact ih (by rwa [pumpNext_cfg hp])
    · exact ⟨_, rfl⟩

theorem refill_completes {p : Params} (ch : ChanId) {c : Chan} (hm : c.cfg.bufLen.toNat ≤ p.bufMax) :
    ∃ c', refill p ch c = .ok c' := by
  obtain ⟨c', hc'⟩ := refillLoop_completes ch (valuesThatFit p c) hm
  simp only [refill, hc']
  exact ⟨_, rfl⟩

theorem memRead_error {p : Params} {ch : ChanId} {c : Chan} {a : Nat} {f : Fault} (h : memRead p ch c a = .error f) :
    p.bufMax ≤ a := by
  by_contra hlt
  simp [memRead, Nat.lt_of_not_le hlt] at h

theorem memWrite_error {p : Params} {c : Chan} {a : Nat} {v : Byte} {f : Fault} (h : memWrite p c a v = .error f) :
    p.bufMax ≤ a := by
  by_contra hlt
  simp [memWrite, Nat.lt_of_not_le hlt] at h

/-! ## What a command of the host answers -/

/-- The outcomes open to a command the host issues (R16): a next state whose port holds a response and whose record of
the host's commands is still the old one, or a fault where a BUF_LEN exceeds the RAM (log 11). -/
def HostAnswer (s : State) : Result → Prop
  | .next t => t.response.isSome ∧ t.hostTrace = s.hostTrace
  | .fault _ => ¬ BufFits s
  | .refused _ => False

@[simp] theorem hostAnswer_next (s t : State) :
    HostAnswer s (.next t) ↔ t.response.isSome ∧ t.hostTrace = s.hostTrace := Iff.rfl

@[simp] theorem raise_response (s : State) (b : Sticky) (st : Status) : (s.raise b st).response = some ⟨st, 0⟩ := rfl

@[simp] theorem raise_hostTrace (s : State) (b : Sticky) (st : Status) : (s.raise b st).hostTrace = s.hostTrace := by
  cases b <;> rfl

/-- A fault of a rule on a channel, where the channel's BUF_LEN would have to exceed the RAM. -/
theorem hostAnswer_fault {s : State} {ch : ChanId} (h : ch.toNat < s.nCh) (f : Fault)
    (hm : ¬ (s.chan ch).cfg.bufLen.toNat ≤ s.params.bufMax) : HostAnswer s (.fault f) :=
  fun fits => hm (fits ch h)

theorem hostAnswer_withChannel {s : State} {ch : ChanId} {k : Chan → Result}
    (h : ch.toNat < s.nCh → HostAnswer s (k (s.chan ch))) : HostAnswer s (withChannel ch s k) := by
  rcases withChannel_cases (rfl : withChannel ch s k = _) with ⟨-, e⟩ | ⟨hlt, e⟩ <;> rw [e]
  · simp
  · exact h hlt

/-- The commands of the interrupt context answer the host with CONTEXT (R192). -/
theorem hostAnswer_internal {s : State} {ch : ChanId} (hc : s.context = .host) (k : Chan → Result) :
    HostAnswer s (withChannel ch s fun c => interruptOnly s (k c)) :=
  hostAnswer_withChannel fun _ => by simp [interruptOnly_host hc]

theorem execCfgWrite_hostAnswer (ch : ChanId) (field : Imm16) (value : Word) (s : State) :
    HostAnswer s (execCfgWrite ch field value s) := by
  refine hostAnswer_withChannel fun _ => ?_
  cases fieldOfId field with
  | config f => dsimp only; split <;> [skip; split] <;> simp
  | status _ => simp
  | unknown => simp

theorem execCfgRead_hostAnswer (ch : ChanId) (field : Imm16) (s : State) : HostAnswer s (execCfgRead ch field s) := by
  refine hostAnswer_withChannel fun _ => ?_
  cases fieldOfId field <;> simp

theorem execBufWrite_hostAnswer (ch : ChanId) (addr : Imm16) (data : Byte) (s : State) :
    HostAnswer s (execBufWrite ch addr data s) := by
  refine hostAnswer_withChannel fun hch => ?_
  split
  · simp
  split
  · simp
  cases hw : memWrite s.params (s.chan ch) addr.toNat data with
  | ok c' => simp
  | error f => exact hostAnswer_fault hch f (by have := memWrite_error hw; omega)

theorem execBufRead_hostAnswer (ch : ChanId) (addr : Imm16) (s : State) : HostAnswer s (execBufRead ch addr s) := by
  refine hostAnswer_withChannel fun hch => ?_
  split
  · simp
  cases hr : memRead s.params ch (s.chan ch) addr.toNat with
  | ok v => simp
  | error f => exact hostAnswer_fault hch f (by have := memRead_error hr; omega)

theorem execTableBuild_hostAnswer (ch : ChanId) (s : State) : HostAnswer s (execTableBuild ch s) := by
  refine hostAnswer_withChannel fun _ => ?_
  split
  · simp
  cases buildTable s.params (s.chan ch) <;> simp

theorem execSetSymbol_hostAnswer (ch : ChanId) (sym : Sym) (w : Word) (s : State) :
    HostAnswer s (execSetSymbol ch sym w s) := by
  refine hostAnswer_withChannel fun _ => ?_
  split <;> [skip; split] <;> simp

theorem execLookup_hostAnswer (ch : ChanId) (sym : Sym) (s : State) : HostAnswer s (execLookup ch sym s) := by
  refine hostAnswer_withChannel fun _ => ?_
  split <;> simp

theorem execBegin_hostAnswer (ch : ChanId) (s : State) : HostAnswer s (execBegin ch s) := by
  refine hostAnswer_withChannel fun _ => ?_
  split
  · simp
  dsimp only
  generalize (if (s.chan ch).bound then unbind (s.chan ch) else s.chan ch) = c
  cases bindChannel s ch c <;> simp

/-- RENDER reads the frame, and so faults only where the frame's cells are not all in the RAM. -/
theorem renderPulse_hostAnswer {s : State} {ch : ChanId} (hch : ch.toNat < s.nCh) :
    HostAnswer s (renderPulse s ch (s.chan ch)) := by
  unfold renderPulse
  split
  · simp
  cases hq : pulseSequence s.params ch (pumpStart (s.chan ch)) with
  | ok r => dsimp only; split <;> simp
  | error f =>
    refine hostAnswer_fault hch f fun hm => ?_
    obtain ⟨r, hr⟩ := pulseSequence_completes ch (c := pumpStart (s.chan ch)) hm
    rw [hr] at hq
    cases hq

theorem execRender_hostAnswer (ch : ChanId) (s : State) : HostAnswer s (execRender ch s) := by
  refine hostAnswer_withChannel fun hch => ?_
  split
  · simp
  split
  · simp
  split
  · simp
  cases (s.chan ch).cfg.transportKind with
  | pulse => exact renderPulse_hostAnswer hch
  | byte => simp [renderByte]

theorem execStop_hostAnswer (ch : ChanId) (s : State) : HostAnswer s (execStop ch s) :=
  hostAnswer_withChannel fun _ => by simp

theorem execPause_hostAnswer (ch : ChanId) (s : State) : HostAnswer s (execPause ch s) := by
  refine hostAnswer_withChannel fun _ => ?_
  split <;> simp

theorem execResume_hostAnswer (ch : ChanId) (s : State) : HostAnswer s (execResume ch s) := by
  refine hostAnswer_withChannel fun _ => ?_
  split <;> simp

theorem execSetMinFrame_hostAnswer (ch : ChanId) (us : Word) (s : State) : HostAnswer s (execSetMinFrame ch us s) := by
  refine hostAnswer_withChannel fun _ => ?_
  split
  · simp
  split
  · split <;> simp
  · simp

theorem execSetWidth_hostAnswer (ch : ChanId) (w : Word) (s : State) : HostAnswer s (execSetWidth ch w s) := by
  refine hostAnswer_withChannel fun _ => ?_
  split <;> [skip; split] <;> simp

theorem execPumpMore_hostAnswer (ch : ChanId) (s : State) : HostAnswer s (execPumpMore ch s) :=
  hostAnswer_withChannel fun _ => by simp

theorem execPacerQuery_hostAnswer (ch : ChanId) (s : State) : HostAnswer s (execPacerQuery ch s) :=
  hostAnswer_withChannel fun _ => by simp

/-- In the host context every command answers (R16, R192). -/
theorem exec_hostAnswer (i : Instr) {s : State} (hc : s.context = .host) : HostAnswer s (exec i s) := by
  cases i with
  | nop => simp [exec, execNop]
  | cfgWrite ch field value => exact execCfgWrite_hostAnswer ch field value s
  | cfgRead ch field => exact execCfgRead_hostAnswer ch field s
  | bufWrite ch addr data => exact execBufWrite_hostAnswer ch addr data s
  | bufRead ch addr => exact execBufRead_hostAnswer ch addr s
  | tableBuild ch => exact execTableBuild_hostAnswer ch s
  | setSymbol ch sym w => exact execSetSymbol_hostAnswer ch sym w s
  | lookup ch sym => exact execLookup_hostAnswer ch sym s
  | beginCh ch => exact execBegin_hostAnswer ch s
  | render ch => exact execRender_hostAnswer ch s
  | stop ch => exact execStop_hostAnswer ch s
  | pause ch => exact execPause_hostAnswer ch s
  | resume ch => exact execResume_hostAnswer ch s
  | setMinFrame ch us => exact execSetMinFrame_hostAnswer ch us s
  | setWidth ch w => exact execSetWidth_hostAnswer ch w s
  | isrFill ch => rw [exec, execIsrFill]; exact hostAnswer_internal hc _
  | pumpStart ch => rw [exec, execPumpStart]; exact hostAnswer_internal hc _
  | pumpMore ch => exact execPumpMore_hostAnswer ch s
  | pumpNext ch => rw [exec, execPumpNext]; exact hostAnswer_internal hc _
  | pacerQuery ch => exact execPacerQuery_hostAnswer ch s
  | pacerRecord ch => rw [exec, execPacerRecord]; exact hostAnswer_internal hc _

/-- Whatever its two words spell, a host command answers (R84). -/
theorem runDecoded_hostAnswer (d : Except DecodeError Instr) {s : State} (hc : s.context = .host) :
    HostAnswer s (runDecoded d s) := by
  cases d with
  | ok i => exact exec_hostAnswer i hc
  | error _ => simp [runDecoded]

theorem HostAnswer.completes {s : State} {r : Result} (h : HostAnswer s r) (fits : BufFits s) : ∃ t, r = .next t := by
  cases r with
  | next t => exact ⟨t, rfl⟩
  | fault _ => exact absurd fits h
  | refused _ => exact h.elim

/-! ## The steps of the agents complete -/

theorem nextMove_chans (s : State) : (nextMove s).2.chans = s.chans := by rw [nextMove_frame]

theorem nextMove_params (s : State) : (nextMove s).2.params = s.params := by rw [nextMove_frame]

theorem nextMove_hostTrace (s : State) : (nextMove s).2.hostTrace = s.hostTrace := by
  rw [nextMove_frame]

/-- One machine step is the step of the agent that moves next (R6). -/
theorem step_eq_agentStep (s : State) : step s = agentStep (nextMove s).1 (nextMove s).2 := rfl

theorem mapNext_completes {r : Result} (f : State → State) (h : ∃ t, r = .next t) : ∃ t, mapNext f r = .next t := by
  obtain ⟨t, rfl⟩ := h
  exact ⟨f t, rfl⟩

/-- A host step with a command to issue runs it in the host context and records its response. -/
theorem hostStep_of_takeCommand {s u : State} {w0 w1 : Word} (h : s.takeCommand = some ((w0, w1), u)) :
    hostStep s = mapNext (recordHost w0 w1) (runDecoded (decode s.nCh w0 w1) { u with context := .host }) := by
  simp only [hostStep, h]

theorem hostStep_completes {s : State} (fits : BufFits s) : ∃ t, hostStep s = .next t := by
  cases hw : s.takeCommand with
  | none => exact ⟨s, by simp only [hostStep, hw]⟩
  | some wu =>
    obtain ⟨⟨w0, w1⟩, u⟩ := wu
    have fits' : BufFits { u with context := .host } := by
      rw [takeCommand_frame hw]
      exact fits.congr rfl rfl
    rw [hostStep_of_takeCommand hw]
    exact mapNext_completes _ ((runDecoded_hostAnswer _ rfl).completes fits')

theorem execIsrFill_completes (ch : ChanId) {s : State} (hc : s.context = .interrupt) (fits : BufFits s) :
    ∃ t, execIsrFill ch s = .next t := by
  unfold execIsrFill
  rcases Nat.lt_or_ge ch.toNat s.nCh with hch | hch
  · obtain ⟨c', hc'⟩ := refill_completes ch (fits ch hch)
    simp only [withChannel_of_lt hch, interruptOnly_interrupt hc, hc']
    split <;> exact ⟨_, rfl⟩
  · exact ⟨_, withChannel_of_ge hch _⟩

theorem agentStep_completes (a : Agent) {s : State} (fits : BufFits s) : ∃ t, agentStep a s = .next t := by
  cases a with
  | host => exact hostStep_completes fits
  | isr ch => exact mapNext_completes _ (execIsrFill_completes ch rfl (fits.congr rfl rfl))
  | pt ch => exact ⟨_, rfl⟩
  | uart ch => exact ⟨_, rfl⟩
  | clock => exact ⟨_, rfl⟩

/-- Settles O54: the invariant keeps every BUF_LEN within the RAM, so that no agent's step reads past it. -/
theorem everyStepCompletes : Obligations.EveryStepCompletes := by
  intro s inv
  rw [step_eq_agentStep]
  exact agentStep_completes _ (inv.bufFits.congr (nextMove_chans s) (nextMove_params s))

/-! ## The host's step -/

theorem step_of_host {s s' u : State} {w0 w1 : Word} (hm : nextMove s = (.host, s'))
    (hw : s'.takeCommand = some ((w0, w1), u)) :
    step s = mapNext (recordHost w0 w1) (runDecoded (decode s'.nCh w0 w1) { u with context := .host }) := by
  rw [step_eq_agentStep, hm]
  exact hostStep_of_takeCommand hw

theorem decode_wellFormed {nCh : Nat} {w0 w1 : Word} {i : Instr} (h : decode nCh w0 w1 = .ok i) :
    i.wellFormed nCh = true := by
  unfold decode at h
  cases hs : decodeShape w0 w1 with
  | error e => simp [hs] at h
  | ok j =>
    simp only [hs] at h
    split at h
    · obtain rfl := Except.ok.inj h
      assumption
    · cases h

theorem recordHost_of_response {w0 w1 : Word} {s : State} {r : Response} (h : s.response = some r) :
    recordHost w0 w1 s = { s with hostTrace := s.hostTrace ++ [⟨w0, w1, r⟩] } := by
  simp only [recordHost, h]

/-- Settles O6: the host's step is the decoded command's, its outcome recorded. -/
theorem stepRunsTheDecodedCommand : Obligations.StepRunsTheDecodedCommand := by
  intro s s' u w0 w1 i hm hw hd
  have hstep := step_of_host hm hw
  rw [hd] at hstep
  refine ⟨decode_wellFormed hd, fun t r ht hr => ?_, fun f hf => ?_⟩
  · rw [hstep, runDecoded, ht, mapNext, recordHost_of_response hr]
  · rw [hstep, runDecoded, hf, mapNext]

/-- What a host step with a command to issue leaves: the response recorded with the command's words, and the rest of
the stream. -/
theorem hostStep_records {s s' u t : State} {w0 w1 : Word} (hm : nextMove s = (.host, s'))
    (hw : s'.takeCommand = some ((w0, w1), u)) (ht : step s = .next t) :
    (∃ r, t.response = some r ∧ t.hostTrace = s.hostTrace ++ [⟨w0, w1, r⟩]) ∧
    t.commands = u.commands ∧ t.onward = u.onward := by
  rw [step_of_host hm hw] at ht
  obtain ⟨v, hv, rfl⟩ := mapNext_next ht
  have answer := runDecoded_hostAnswer (decode s'.nCh w0 w1) (s := { u with context := .host }) rfl
  rw [hv, hostAnswer_next] at answer
  obtain ⟨responds, sameTrace⟩ := answer
  obtain ⟨r, hr⟩ := Option.isSome_iff_exists.1 responds
  obtain ⟨-, hcommands, honward⟩ := runDecoded_keeps hv
  have trace : v.hostTrace = s.hostTrace := by
    have taken : u.hostTrace = s'.hostTrace := by rw [takeCommand_frame hw]
    have moved := nextMove_hostTrace s
    rw [hm] at moved
    exact sameTrace.trans (taken.trans moved)
  rw [recordHost_of_response hr, ← trace]
  exact ⟨⟨r, hr, rfl⟩, hcommands, honward⟩

/-- Settles O7: a host step's one event by `hostStep_records`, the stream by the cases of `takeCommand`. -/
theorem hostStepGivesExactlyOneResponse : Obligations.HostStepGivesExactlyOneResponse := by
  refine ⟨by decide, fun s s' u t w0 w1 => hostStep_records, ?_, ?_, ?_⟩
  · rintro s w rest (hc | ⟨hc, ho⟩)
    · simp only [State.takeCommand, hc]
    · simp only [State.takeCommand, hc, ho]
  · intro s k hc ho
    simp only [State.takeCommand, hc, ho]
  · rintro s hc (ho | ho) <;> simp only [State.takeCommand, hc, ho]

/-! ## The schedule (R6) -/

theorem nextMove_of_schedule {s : State} {a : Agent} {l : List Agent} (hs : s.schedule = a :: l)
    (ha : enabled s a = true) : nextMove s = (a, { s with schedule := l }) := by
  simp [nextMove, hs, ha]

theorem nextMove_of_schedule_nil {s : State} (hs : s.schedule = []) :
    nextMove s = (freeMove s.hostMayStop, s.hostMayStop.drawAfter (freeMove s.hostMayStop)) := by
  simp [nextMove, hs]

/-- Choosing the next agent shortens a schedule that is not yet at its end. -/
theorem nextMove_schedule_length_lt {s : State} (hs : s.schedule ≠ []) :
    (nextMove s).2.schedule.length < s.schedule.length := by
  unfold nextMove
  split
  · rename_i a rest h
    have := (List.dropWhile_suffix (l := s.schedule) fun a => !enabled s a).length_le
    rw [h] at this
    simpa using this
  · exact List.length_pos_iff.2 hs

theorem step_of_scheduled {s : State} {a : Agent} (ha : enabled s a = true) :
    step { s with schedule := a :: s.schedule } = agentStep a s := by
  rw [step_eq_agentStep, nextMove_of_schedule rfl ((enabled_withSchedule s _ a).trans ha)]

/-! ## Free moves in a run (R7)

Once the schedule is at its end every step is a free move, and `turn` counts them. Against an agent `a` that stays
enabled and never moves, every mover falls due no later than `a`, whose due time `due` stands still; but once `turn` has
reached `due`, an agent that moves falls due later than `due` for ever after. So no agent moves twice from then on, and
there are finitely many. -/

/-- A step keeps what the choice of its agent left in the fields of the schedule, and the number of channels. -/
theorem step_keeps {s t : State} (h : step s = .next t) :
    (t.schedule = (nextMove s).2.schedule ∧ t.turn = (nextMove s).2.turn ∧ t.drawn = (nextMove s).2.drawn) ∧
    t.nCh = s.nCh := by
  obtain ⟨⟨hschedule, hturn, hdrawn, hnCh⟩, -⟩ := agentStep_keeps h
  exact ⟨⟨hschedule, hturn, hdrawn⟩, hnCh.trans (congrArg List.length (nextMove_chans s))⟩

/-- An agent stands at its number in the list of all agents: it is one of the machine's (R5). -/
def Listed (s : State) (a : Agent) : Prop := (allAgents s.nCh)[agentNumber a]? = some a

theorem Listed.congr {s t : State} {a : Agent} (h : Listed s a) (hn : t.nCh = s.nCh) : Listed t a := by
  unfold Listed at h ⊢
  rwa [hn]

theorem nCh_hostMayStop (s : State) : s.hostMayStop.nCh = s.nCh := by rw [hostMayStop_frame]; rfl

theorem turn_hostMayStop (s : State) : s.hostMayStop.turn = s.turn := by rw [hostMayStop_frame]

theorem drawnAt_hostMayStop (s : State) (a : Agent) : s.hostMayStop.drawnAt a = s.drawnAt a := by
  rw [hostMayStop_frame]; rfl

theorem dueAt_hostMayStop (s : State) (a : Agent) : s.hostMayStop.dueAt a = s.dueAt a := by
  rw [hostMayStop_frame]; rfl

theorem listed_freeMove (s : State) : Listed s (freeMove s.hostMayStop) :=
  Listed.congr (allAgents_getElem_agentNumber (freeMove_enabled _)) (nCh_hostMayStop s).symm

/-- What a step past the end of the schedule does to the fields of the schedule. -/
theorem step_of_schedule_nil {s t : State} (h : step s = .next t) (hs : s.schedule = []) :
    t.schedule = [] ∧ t.turn = s.turn + 1 ∧
    ∀ a, Listed s a → t.drawnAt a =
      if a = freeMove s.hostMayStop ∨ enabled s.hostMayStop a = false then s.turn + 1 else s.drawnAt a := by
  obtain ⟨⟨hschedule, hturn, hdrawn⟩, -⟩ := step_keeps h
  rw [nextMove_of_schedule_nil hs] at hschedule hturn hdrawn
  refine ⟨hschedule, hturn.trans (congrArg (· + 1) (turn_hostMayStop s)), fun a ha => ?_⟩
  have drawn := drawnAt_drawAfter (m := freeMove s.hostMayStop) (ha.congr (nCh_hostMayStop s))
  rw [turn_hostMayStop, drawnAt_hostMayStop] at drawn
  rw [← drawn]
  simp only [State.drawnAt, hdrawn]

section
variable {run : Nat → State} (hrun : IsRun run)
include hrun

theorem run_nCh (n : Nat) : (run n).nCh = (run 0).nCh := by
  induction n with
  | zero => rfl
  | succ n ih => exact (step_keeps (hrun n)).2.trans ih

/-- Every run reaches the end of its schedule. -/
theorem run_reaches_schedule_nil (n : Nat) : ∃ m, n ≤ m ∧ (run m).schedule = [] := by
  induction hl : (run n).schedule.length using Nat.strong_induction_on generalizing n with
  | _ len ih =>
    by_cases hs : (run n).schedule = []
    · exact ⟨n, le_rfl, hs⟩
    · have shorter := nextMove_schedule_length_lt hs
      obtain ⟨⟨hschedule, -, -⟩, -⟩ := step_keeps (hrun n)
      rw [← hschedule, hl] at shorter
      obtain ⟨m, hm, hnil⟩ := ih _ shorter (n + 1) rfl
      exact ⟨m, by omega, hnil⟩

/-- Past the end of its schedule a run makes free moves only, and `turn` counts them. -/
theorem run_free {n : Nat} (hs : (run n).schedule = []) (k : Nat) :
    (run (n + k)).schedule = [] ∧ (run (n + k)).turn = (run n).turn + k := by
  induction k with
  | zero => exact ⟨hs, rfl⟩
  | succ k ih =>
    obtain ⟨hnil, hturn⟩ := ih
    obtain ⟨hnil', hturn', -⟩ := step_of_schedule_nil (hrun (n + k)) hnil
    exact ⟨hnil', by rw [Nat.add_succ, hturn', hturn]; rfl⟩

/-- From some time on every move is a free one, at or after a given free move. -/
theorem run_reaches_free (n due : Nat) : ∃ N, n ≤ N ∧ ∀ m, N ≤ m → (run m).schedule = [] ∧ due ≤ (run m).turn := by
  obtain ⟨m, hm, hnil⟩ := run_reaches_schedule_nil hrun n
  refine ⟨m + due, by omega, fun j hj => ?_⟩
  obtain ⟨k, rfl⟩ := Nat.exists_eq_add_of_le (show m ≤ j by omega)
  obtain ⟨hs, hturn⟩ := run_free hrun hnil k
  exact ⟨hs, by omega⟩

/-- Past the end of the schedule, the present delay of an enabled agent that does not move stands. -/
theorem run_dueAt_const {a : Agent} {N : Nat} (hfree : ∀ m, N ≤ m → (run m).schedule = [])
    (hen : ∀ m, N ≤ m → enabled (run m).hostMayStop a = true) (hstill : ∀ m, N ≤ m → (nextMove (run m)).1 ≠ a)
    (m : Nat) (hm : N ≤ m) : (run m).dueAt a = (run N).dueAt a := by
  induction m, hm using Nat.le_induction with
  | base => rfl
  | succ m hm ih =>
    have listed : Listed (run m) a :=
      Listed.congr (allAgents_getElem_agentNumber (hen m hm)) (nCh_hostMayStop _).symm
    obtain ⟨-, -, hdrawn⟩ := step_of_schedule_nil (hrun m) (hfree m hm)
    have mover := hstill m hm
    rw [nextMove_of_schedule_nil (hfree m hm)] at mover
    have same : (run (m + 1)).drawnAt a = (run m).drawnAt a := by
      rw [hdrawn a listed, if_neg]
      simp [hen m hm, Ne.symm mover]
    rw [← ih]
    simp only [State.dueAt, same]

/-- An agent whose delay was drawn after the free move `due` keeps it so. -/
theorem run_drawnAt_stays_late {b : Agent} {N due : Nat}
    (hfree : ∀ m, N ≤ m → (run m).schedule = [] ∧ due ≤ (run m).turn) {i : Nat} (hi : N ≤ i)
    (listed : Listed (run 0) b) (late : due < (run i).drawnAt b) (j : Nat) (hj : i ≤ j) :
    due < (run j).drawnAt b := by
  induction j, hj using Nat.le_induction with
  | base => exact late
  | succ j hj ih =>
    obtain ⟨hnil, hturn⟩ := hfree j (hi.trans hj)
    obtain ⟨-, -, hdrawn⟩ := step_of_schedule_nil (hrun j) hnil
    rw [hdrawn b (listed.congr (run_nCh hrun j))]
    split <;> omega

/-- An agent that moves at or after the free move `due` falls due after it for ever. -/
theorem run_mover_dueAt_late {N due : Nat} (hfree : ∀ m, N ≤ m → (run m).schedule = [] ∧ due ≤ (run m).turn)
    {i j : Nat} (hi : N ≤ i) (hij : i < j) : due < (run j).dueAt (freeMove (run i).hostMayStop) := by
  obtain ⟨hnil, hturn⟩ := hfree i hi
  have listed := listed_freeMove (run i)
  obtain ⟨-, -, hdrawn⟩ := step_of_schedule_nil (hrun i) hnil
  have drawn := hdrawn _ listed
  rw [if_pos (.inl rfl)] at drawn
  have late := run_drawnAt_stays_late hrun hfree (i := i + 1) (by omega) (listed.congr (run_nCh hrun i).symm)
    (by omega) j hij
  simp only [State.dueAt]
  omega

/-- The free movers of a run cannot all be different agents. -/
theorem run_mover_repeats (N : Nat) :
    ∃ i j, N ≤ i ∧ i < j ∧ freeMove (run i).hostMayStop = freeMove (run j).hostMayStop := by
  have place (m : Nat) :
      (allAgents (run 0).nCh)[agentNumber (freeMove (run m).hostMayStop)]? = some (freeMove (run m).hostMayStop) :=
    (listed_freeMove (run m)).congr (run_nCh hrun m).symm
  have lt (m : Nat) := (List.getElem?_eq_some_iff.1 (place m)).1
  obtain ⟨x, y, hne, heq⟩ := Finite.exists_ne_map_eq_of_infinite fun k : Nat =>
    (⟨agentNumber (freeMove (run (N + k)).hostMayStop), lt (N + k)⟩ : Fin (allAgents (run 0).nCh).length)
  have same : freeMove (run (N + x)).hostMayStop = freeMove (run (N + y)).hostMayStop := by
    have numbers := Fin.mk.inj heq
    have hx := place (N + x)
    rw [numbers, place (N + y)] at hx
    exact (Option.some.inj hx).symm
  rcases Nat.lt_or_gt_of_ne hne with h | h
  · exact ⟨N + x, N + y, by omega, by omega, same⟩
  · exact ⟨N + y, N + x, by omega, by omega, same.symm⟩

/-- An agent that stays enabled, also where the host may have stopped, moves (R7). -/
theorem run_moves {a : Agent} {n : Nat} (hen : ∀ m, n ≤ m → enabled (run m).hostMayStop a = true) :
    ∃ m, n ≤ m ∧ (nextMove (run m)).1 = a := by
  by_contra! hno
  obtain ⟨N₀, hN₀, hnil⟩ := run_reaches_free hrun n 0
  have due := run_dueAt_const hrun (a := a) (N := N₀) (fun m hm => (hnil m hm).1)
    (fun m hm => hen m (hN₀.trans hm)) (fun m hm => hno m (hN₀.trans hm))
  obtain ⟨N, hN, hfree⟩ := run_reaches_free hrun N₀ ((run N₀).dueAt a)
  obtain ⟨i, j, hi, hij, same⟩ := run_mover_repeats hrun N
  have late := run_mover_dueAt_late hrun hfree hi hij
  have early := freeMove_dueAt_le (hen j (by omega))
  rw [dueAt_hostMayStop, dueAt_hostMayStop, due j (by omega), ← same] at early
  omega

theorem run_weaklyFair : WeaklyFair run := by
  intro a ha n hen
  refine run_moves hrun fun m hm => ?_
  rw [enabled_of_chans (s := run m) (by rw [hostMayStop_frame]) ha]
  exact hen m hm

theorem run_onward_repeats {program : List (Word × Word)} (h : (run 0).onward = .repeats program) (n : Nat) :
    (run n).onward = .repeats program := by
  induction n with
  | zero => exact h
  | succ n ih => exact (agentStep_keeps (hrun n)).2 program ((nextMove_stream_of_repeats ih).2.trans ih)

/-- A host that repeats its commands never stops, stays enabled, and so moves again and again (R219). -/
theorem run_repeating_host_moves {w : Word × Word} {rest : List (Word × Word)}
    (h : (run 0).onward = .repeats (w :: rest)) (n : Nat) : ∃ m, n ≤ m ∧ (nextMove (run m)).1 = .host := by
  refine run_moves hrun fun m _ => ?_
  have repeats := run_onward_repeats hrun h m
  rw [hostMayStop_of_repeats repeats]
  exact enabled_host_of_repeats repeats

end

/-- Settles O8: the schedule names the next mover, and past its end no enabled agent is left waiting (`run_moves`). -/
theorem enabledAgentsMoveFreelyAndFairly : Obligations.EnabledAgentsMoveFreelyAndFairly :=
  ⟨fun _ _ => step_of_scheduled, fun _ => run_weaklyFair, fun _ _ _ hrun => run_repeating_host_moves hrun⟩

end Sys2Proof.Machine
end

section
/-! PROOF. The state of 10_state.md: the reset state meets the invariant and every step keeps it (R45), the status
fields read the state (R44), the legal values of a field (R22, R79), and what moves TIME_US (R40). The invariant is
proved one channel at a time: each operation a step makes on a channel keeps `ChanOk`, and `Inv.setChan` carries that to
the machine where the channel claims nothing another bound channel holds. -/
namespace Sys2Proof.Machine

open Sys2Proof

/-! ## The frame image and the loops that read it -/

theorem framingSlots_length (w : Word) (n : BitVec 3) : (framingSlots w n).length = n.toNat := by
  simp [framingSlots, bytesOf]

/-- The ceiling of `n / g` goes up by one where `n` is a multiple of `g`. -/
theorem ceilDiv_succ {g : Nat} (hg : 0 < g) (n : Nat) :
    (n + 1 + g - 1) / g = (n + g - 1) / g + if n % g = 0 then 1 else 0 := by
  have e : n + 1 + g - 1 = n + g - 1 + 1 := by omega
  rw [e, Nat.succ_div]
  have dvd : g ∣ n + g - 1 + 1 ↔ n % g = 0 := by
    rw [show n + g - 1 + 1 = n + g by omega, Nat.dvd_add_self_right, Nat.dvd_iff_mod_eq_zero]
  simp only [dvd]

/-- The pixel pump's positions: the values, and a group preamble before each group (R165). -/
theorem pixelSlots_length (c : Cfg) (n : Nat) :
    ((List.range n).flatMap fun i => groupPreamble c i ++ [Slot.cell i]).length =
      n + if 0 < c.groupSize.toNat then (n + c.groupSize.toNat - 1) / c.groupSize.toNat * c.grpLen.toNat else 0 := by
  induction n with
  | zero =>
    split
    · rename_i hg
      have noGroup : (0 + c.groupSize.toNat - 1) / c.groupSize.toNat = 0 := Nat.div_eq_of_lt (by omega)
      rw [noGroup, Nat.zero_mul]
      rfl
    · rfl
  | succ n ih =>
    rw [List.range_succ, List.flatMap_append, List.length_append, ih]
    simp only [List.flatMap_singleton, List.length_append, List.length_singleton, groupPreamble]
    by_cases hg : 0 < c.groupSize.toNat
    · simp only [hg, if_true, true_and, ceilDiv_succ hg]
      split
      · rw [framingSlots_length, Nat.add_mul]; omega
      · simp; omega
    · simp only [hg, if_false, false_and, List.length_nil]

/-- The formula of R165 counts the positions of the frame image. -/
theorem frameSlots_length (c : Cfg) : (frameSlots c).length = frameLen c := by
  unfold frameSlots frameLen
  simp only [List.length_append, framingSlots_length]
  cases c.pumpKind with
  | pixel => simp only [pixelSlots_length]; omega
  | serial => simp only [List.length_map, List.length_range]; omega

theorem frameImage_length (ch : ChanId) (c : Chan) : (frameImage ch c).length = frameLen c.cfg := by
  rw [frameImage, List.length_map, frameSlots_length]

theorem pumpMore_iff (c : Chan) : pumpMore c = true ↔ c.curOffset.toNat < frameLen c.cfg := by
  simp [pumpMore]

/-- PUMP_NEXT where PUMP_MORE holds advances the cursor and nothing else: nothing is read past the end (R169). -/
theorem pumpNext_of_more {p : Params} {ch : ChanId} {c c' : Chan} {vm : Byte × Multiplier} (more : pumpMore c = true)
    (h : pumpNext p ch c = .ok (vm, c')) :
    c' = { c with curOffset := c.curOffset + 1 } ∧ c'.curOffset.toNat = c.curOffset.toNat + 1 := by
  rw [pumpMore_iff] at more
  have bound := frameLen_lt c.cfg
  rcases pumpNext_ok h with ⟨-, -, -, rfl⟩ | ⟨past, -, -⟩
  · refine ⟨rfl, ?_⟩
    rw [BitVec.toNat_add, show BitVec.toNat (1 : Word) = 1 from rfl]
    omega
  · rw [frameSlots_length] at past
    omega

/-- The translation of the rest of a frame: each of the `n` values left gives `WIDTH` items, and the cursor ends at the
frame's end (R135, R136). -/
theorem translateLoop_ok {p : Params} {ch : ChanId} {n : Nat} {c c' : Chan} {acc seq : List Word}
    (left : c.curOffset.toNat + n = frameLen c.cfg) (h : translateLoop p ch n c acc = .ok (seq, c')) :
    seq.length = acc.length + n * c.width.toNat ∧ c' = { c with curOffset := c'.curOffset } ∧
      c'.curOffset.toNat = frameLen c.cfg := by
  induction n generalizing c acc with
  | zero =>
    obtain ⟨rfl, rfl⟩ := Prod.mk.inj (Except.ok.inj h)
    exact ⟨by simp, rfl, left⟩
  | succ n ih =>
    have more : pumpMore c = true := (pumpMore_iff c).2 (by omega)
    simp only [translateLoop, more, if_true] at h
    split at h
    · rename_i v m c1 hp
      obtain ⟨rfl, advanced⟩ := pumpNext_of_more more hp
      obtain ⟨len, same, last⟩ := ih (by rw [advanced]; simp only; omega) h
      refine ⟨len.trans ?_, same, last⟩
      rw [List.length_append, byteItems, List.length_map, bitsOf, List.length_map, List.length_range, Nat.add_mul]
      dsimp only
      omega
    · cases h

theorem markerItems_length (w : Word) : (markerItems w).length = notNullCount w := by
  unfold markerItems notNullCount
  split <;> rfl

/-- The sequence of a frame is as long as the formula of R136 says, and reading it leaves the cursor at the frame's
end. -/
theorem pulseSequence_ok {p : Params} {ch : ChanId} {c c' : Chan} {seq : List Word} (start : c.curOffset = 0)
    (h : pulseSequence p ch c = .ok (seq, c')) :
    seq.length = pulseItemCount c ∧ c' = { c with curOffset := c'.curOffset } ∧
      c'.curOffset.toNat = frameLen c.cfg := by
  unfold pulseSequence at h
  split at h
  · rename_i items c1 hl
    obtain ⟨rfl, rfl⟩ := Prod.mk.inj (Except.ok.inj h)
    obtain ⟨len, same, last⟩ := translateLoop_ok (by simp [start]) hl
    refine ⟨?_, same, last⟩
    simp only [List.length_append, len, markerItems_length, pulseItemCount]
  · cases h

/-- The refill's loop queues at most the `n` values asked for, and stays within the frame (R151, R152). -/
theorem refillLoop_ok {p : Params} {ch : ChanId} {n : Nat} {c c' : Chan}
    (inFrame : c.curOffset.toNat ≤ frameLen c.cfg) (h : refillLoop p ch n c = .ok c') :
    c'.fifo.length ≤ c.fifo.length + n * bytesPerValue c ∧
      c' = { c with fifo := c'.fifo, curOffset := c'.curOffset } ∧ c'.curOffset.toNat ≤ frameLen c.cfg := by
  induction n generalizing c with
  | zero => obtain rfl := Except.ok.inj h; exact ⟨by simp, rfl, inFrame⟩
  | succ n ih =>
    simp only [refillLoop] at h
    split at h
    · rename_i more
      split at h
      · rename_i v m c1 hp
        obtain ⟨rfl, advanced⟩ := pumpNext_of_more more hp
        have within := (pumpMore_iff c).1 more
        obtain ⟨len, same, last⟩ := ih (by rw [advanced]; simp only; omega) h
        refine ⟨len.trans ?_, same, last⟩
        rw [List.length_append, valueBytes_length, Nat.add_mul]
        simp only [bytesPerValue]
        omega
      · cases h
    · obtain rfl := Except.ok.inj h
      exact ⟨by omega, rfl, inFrame⟩

/-- What a refill leaves of a channel within its frame: the free slots are not overrun, and the frame goes on, streaming
if bytes were queued, or has ended (R151, R152). -/
theorem refill_ok {p : Params} {ch : ChanId} {c c' : Chan} (inFrame : c.curOffset.toNat ≤ frameLen c.cfg)
    (fits : c.fifo.length ≤ p.fifoDepth) (h : refill p ch c = .ok c') :
    ∃ (fifo : List Byte) (cursor : Word), fifo.length ≤ p.fifoDepth ∧ cursor.toNat ≤ frameLen c.cfg ∧
      (c' = { c with fifo := fifo, curOffset := cursor } ∨
       (c.state = .armed ∧ c' = { c with fifo := fifo, curOffset := cursor, state := .streaming }) ∨
       c' = finishByteFrame { c with fifo := fifo, curOffset := cursor }) := by
  unfold refill at h
  split at h
  · rename_i c1 hl
    obtain ⟨len, same, within⟩ := refillLoop_ok inFrame hl
    have room : c1.fifo.length ≤ p.fifoDepth := by
      have := Nat.div_mul_le_self (p.fifoDepth - c.fifo.length) (bytesPerValue c)
      unfold valuesThatFit at len
      omega
    refine ⟨c1.fifo, c1.curOffset, room, within, ?_⟩
    obtain rfl := Except.ok.inj h
    rw [same]
    by_cases hs : c.fifo.length < c1.fifo.length ∧ c.state = .armed
    · simp only [hs, and_self, if_true]
      split
      · exact .inr (.inl ⟨trivial, rfl⟩)
      · exact .inr (.inr rfl)
    · simp only [hs, if_false]
      split
      · exact .inl rfl
      · exact .inr (.inr rfl)
  · cases h

/-! ## Configuration fields -/

/-- What CFG_READ shows of a narrow field is the value written, where it fits (R91, R93). -/
theorem setWidth_setWidth_of_lt {v : Word} {k : Nat} (h : v.toNat < 2 ^ k) : (v.setWidth k).setWidth 32 = v := by
  apply BitVec.eq_of_toNat_eq
  rw [BitVec.toNat_setWidth, BitVec.toNat_setWidth, Nat.mod_eq_of_lt h, Nat.mod_eq_of_lt v.isLt]

theorem bit_getLsbD_zero (v : Word) : bit (v.getLsbD 0) = v.setWidth 1 := (BitVec.setWidth_one).symm

theorem kindCode_kindOfCode (c : BitVec 1) : kindCode (kindOfCode c) = c := by revert c; decide

theorem pumpKindCode_pumpKindOfCode (c : BitVec 1) : pumpKindCode (pumpKindOfCode c) = c := by revert c; decide

theorem between_iff (lo hi : Nat) (v : Word) : between lo hi v = true ↔ lo ≤ v.toNat ∧ v.toNat ≤ hi := by
  simp [between]

/-- A legal value fits its field, and so is read back as written (R22, R91). -/
theorem cfgGet_cfgSet_same {p : Params} (hp : p.wf) (c : Cfg) (f : CfgField) {v : Word}
    (h : legalValue p f v = true) : cfgGet (cfgSet c f v) f = v := by
  obtain ⟨⟨-, periphs⟩, ⟨-, pins⟩, ⟨-, cells⟩, ⟨-, depth⟩, -⟩ := hp
  cases f <;> simp only [legalValue, legalBias, between_iff, decide_eq_true_eq, Bool.and_eq_true] at h <;>
    simp only [cfgSet, cfgGet, bit_getLsbD_zero, kindCode_kindOfCode, pumpKindCode_pumpKindOfCode] <;>
    exact setWidth_setWidth_of_lt (by omega)

/-- A write of one field leaves what every other one reads as. -/
theorem cfgGet_cfgSet_other (c : Cfg) {f g : CfgField} (v : Word) (h : g ≠ f) :
    cfgGet (cfgSet c f v) g = cfgGet c g := by
  cases f <;> cases g <;> first | rfl | exact absurd rfl h

/-- A field that BEGIN does not consume (R23) leaves what binds the channel. -/
theorem cfgSet_of_not_bindField (c : Cfg) {f : CfgField} (v : Word) (h : isBindField f = false) :
    (cfgSet c f v).transportKind = c.transportKind ∧ (cfgSet c f v).periphId = c.periphId ∧
      (cfgSet c f v).pin = c.pin := by
  cases f <;> first | exact ⟨rfl, rfl, rfl⟩ | cases h

theorem cfgSet_transportKind_of_ne (c : Cfg) {f : CfgField} (v : Word) (h : f ≠ .transportKind) :
    (cfgSet c f v).transportKind = c.transportKind := by
  cases f <;> first | rfl | exact absurd rfl h

/-! ## The timing table -/

theorem descDl_desc {dh dl : Nat} (lh ll : Bool) (h : dl ≤ durMax) : descDl (desc dh lh dl ll) = dl := by
  have field : (desc dh lh dl ll).extractLsb' 16 15 = BitVec.ofNat 15 dl := by
    ext i hi
    rw [BitVec.getElem_extractLsb']
    change BitVec.getLsbD (w := 1 + 15 + 1 + 15) (bit ll ++ BitVec.ofNat 15 dl ++ bit lh ++ BitVec.ofNat 15 dh) _ = _
    have h1 : ¬ 16 + i < 15 := by omega
    have h2 : ¬ 16 + i - 15 < 1  := by omega
    have h3 : 16 + i - 15 - 1 = i := by omega
    rw [BitVec.getLsbD_append, if_neg h1, BitVec.getLsbD_append, if_neg h2, h3, BitVec.getLsbD_append, if_pos hi,
     BitVec.getLsbD_eq_getElem]
  rw [descDl, field, BitVec.toNat_ofNat, Nat.mod_eq_of_lt]
  unfold durMax at h
  omega
/-- A gap that fits is no NULL entry (R103, R104). -/
theorem gapEntry_not_null (c : Cfg) {g : Nat} (h : gapFits g = true) : isNull (gapEntry c g) = false := by
  simp only [gapFits, Bool.and_eq_true, decide_eq_true_eq] at h
  have low : descDl (gapEntry c g) = g := descDl_desc _ _ h.2
  simp only [isNull, low, Bool.and_eq_false_iff, beq_eq_false_iff_ne]
  omega

/-- The entries that may not be NULL on a pulse-train channel (R103). -/
def RequiredNotNull (t : SymbolTable) : Prop :=
  isNull t.zeroBit = false ∧ isNull t.oneBit = false ∧ isNull t.interframeGap = false

theorem buildPulse_notNull {p : Params} {c : Chan} {t : SymbolTable} (h : buildPulse p c = .ok t) :
    RequiredNotNull t := by
  unfold buildPulse at h
  split at h
  · cases h
  split at h
  · cases h
  dsimp only at h
  split at h
  · cases h
  split at h
  · cases h
  split at h
  · cases h
  obtain rfl := Except.ok.inj h
  rename_i fits zero one
  exact ⟨by simpa using zero, by simpa using one, gapEntry_not_null _ (by simpa using fits)⟩

theorem tableSet_notNull {t : SymbolTable} {sym : Sym} {w : Word} (h : RequiredNotNull t)
    (hw : mustNotBeNull sym = true → isNull w = false) : RequiredNotNull (tableSet t sym w) := by
  obtain ⟨zero, one, gap⟩ := h
  cases sym with
  | zeroBit => exact ⟨hw rfl, one, gap⟩
  | oneBit => exact ⟨zero, hw rfl, gap⟩
  | interframeGap => exact ⟨zero, one, hw rfl⟩
  | startBit => exact ⟨zero, one, gap⟩
  | stopBit => exact ⟨zero, one, gap⟩

theorem tsetMark_full (sym : Sym) : tsetMark tsetFull sym = tsetFull := by cases sym <;> decide

/-! ## A write of a field -/

/-- A write of field `f` on a channel that it does not unbind: a table input clears BUILT, TRANSPORT_KIND clears TSET
(R91). -/
def fieldWritten (c : Chan) (f : CfgField) (v : Word) : Chan :=
  { c with cfg := cfgSet c.cfg f v
           built := c.built && !isTableInput f
           tset := if f = .transportKind then 0 else c.tset }

/-- A write unbinds a bound channel where BEGIN consumes the field, and is otherwise a write alone (R92). -/
theorem writeField_eq (c : Chan) (f : CfgField) (v : Word) :
    writeField c f v = fieldWritten (if isBindField f ∧ c.bound then unbind c else c) f v := by
  have after : writeField c f v =
      if isBindField f ∧ c.bound then unbind (fieldWritten c f v) else fieldWritten c f v := by
    unfold writeField fieldWritten
    cases isTableInput f <;> by_cases hf : f = .transportKind <;> simp [hf]
  rw [after]
  split <;> rfl

/-! ## BEGIN's claim -/

/-- A claim that no other channel holds: each bound one has another peripheral and another pin (R42, R115). -/
theorem claimedByOther_false {s : State} {ch : ChanId} {c : Chan} (free : claimedByOther s ch c = false) {o : ChanId}
    (ho : o.toNat < s.nCh) (ne : o ≠ ch) (bound : (s.chan o).bound = true) :
    (s.chan o).cfg.periphId ≠ c.cfg.periphId ∧ (s.chan o).cfg.pin ≠ c.cfg.pin := by
  have ne' : o.toNat ≠ ch.toNat := fun e => ne (BitVec.eq_of_toNat_eq e)
  have held : s.chans[o.toNat]? = some (s.chan o) := by
    have lt : o.toNat < s.chans.length := ho
    simp [State.chan, lt]
  have := List.any_eq_false.1 free o.toNat (List.mem_range.2 ho)
  simpa [held, ne', bound] using this

/-- What BEGIN's checks and the binding give of a channel, if they pass (R115). -/
theorem bindChannel_ok {s : State} {ch : ChanId} {c c' : Chan} (h : bindChannel s ch c = .ok c') :
    claimedByOther s ch c = false ∧ s.params.periphKind[c.cfg.periphId.toNat]? = some c.cfg.transportKind ∧
      c' = { c with bound := true, baud := c'.baud, line := c'.line, ptTrace := c'.ptTrace,
                    uartTrace := c'.uartTrace } := by
  unfold bindChannel at h
  split at h
  · cases h
  rename_i free
  split at h
  · cases h
  rename_i kind
  refine ⟨by simpa using free, by simpa using kind, ?_⟩
  split at h
  · split at h
    · cases h
    split at h
    · cases h
    obtain rfl := Except.ok.inj h
    rfl
  · obtain rfl := Except.ok.inj h
    rfl

/-! ## The pulse peripheral's step -/

/-- What PT_EMIT leaves of a channel with an item queued: the frame goes on, streaming, or the last item ended it
(R140). -/
theorem ptEmit_cases {c : Chan} {d : Word} {rest : List Word} (h : c.ptq = d :: rest) :
    ∃ (trace : List PtEvent) (line : Bool),
      (rest ≠ [] ∧ ptEmit c = { c with ptq := rest, ptTrace := trace, line := line,
                                       state := if c.state = .armed then .streaming else c.state }) ∨
      (rest = [] ∧ ptEmit c = finishPulseFrame { c with ptq := [], ptTrace := trace, line := line }) := by
  refine ⟨(emitItem { c with ptq := rest } d).ptTrace, (emitItem { c with ptq := rest } d).line, ?_⟩
  rw [ptEmit_cons h]
  dsimp only
  rw [emitItem_frame { c with ptq := rest } d]
  by_cases hr : rest = []
  · refine .inr ⟨hr, ?_⟩
    subst hr
    rw [if_pos rfl]
    split <;> rfl
  · refine .inl ⟨hr, ?_⟩
    rw [if_neg hr]
    dsimp only
    split <;> rfl

/-! ## Operations on a channel keep its invariant -/

namespace ChanOk

variable {p : Params} {c : Chan}

/-- An idle channel is not active, has its interrupt disabled and queues no item. -/
theorem of_idle (h : ChanOk p c) (idle : c.state = .idle) :
    c.curActive = false ∧ c.intEn = false ∧ c.ptq = [] := by
  refine ⟨?_, ?_, ?_⟩
  · have := h.active
    simpa [idle] using this
  · by_contra on
    have := (h.intEn (by simpa using on)).2
    simp [idle] at this
  · cases hk : c.cfg.transportKind with
    | pulse => simpa [idle] using h.pulseQueue hk
    | byte => exact h.byteNoItems hk

theorem err_or (h : ChanOk p c) {e : BitVec 3} (he : e.getLsbD 1 = false) :
    ChanOk p { c with err := c.err ||| e } :=
  { h with noOverread := by rw [BitVec.getLsbD_or, h.noOverread, he]; rfl }

theorem unbound (h : ChanOk p c) (idle : c.state = .idle) : ChanOk p (unbind c) :=
  { h with
    intEn := fun on => by cases on
    refilled := fun _ busy => by simp [idle] at busy
    inFrame := fun busy => absurd idle busy
    pulseQueue := fun _ => by simp [idle]
    unboundEmpty := fun _ => ⟨rfl, rfl⟩
    fifoFits := Nat.zero_le _
    ptqFits := Nat.zero_le _
    kindMatches := fun bound => by cases bound
    byteNoItems := fun _ => rfl
    pulseNoBytes := fun _ => rfl }

theorem unbound_if_bound (h : ChanOk p c) (idle : c.state = .idle) :
    ChanOk p (if c.bound then unbind c else c) := by
  split
  · exact h.unbound idle
  · exact h

theorem written (h : ChanOk p c) (hp : p.wf) (idle : c.state = .idle) {f : CfgField} {v : Word}
    (legal : legalValue p f v = true) (free : isBindField f = true → c.bound = false) :
    ChanOk p (fieldWritten c f v) := by
  obtain ⟨inactive, off, noItems⟩ := h.of_idle idle
  have kept : (fieldWritten c f v).built = true → c.built = true ∧ f ≠ .transportKind := by
    intro built
    simp only [fieldWritten, Bool.and_eq_true, Bool.not_eq_true'] at built
    exact ⟨built.1, fun hf => by rw [hf] at built; cases built.2⟩
  exact
  { h with
    intEn := fun on => absurd (off.symm.trans on) (by decide)
    refilled := fun _ busy => by simp [fieldWritten, idle] at busy
    inFrame := fun busy => absurd idle busy
    paused := fun paused => by simp [fieldWritten, idle] at paused
    pulseQueue := fun _ => by simp [fieldWritten, idle, noItems]
    byteNoItems := fun _ => noItems
    kindMatches := fun bound => by
      cases hf : isBindField f with
      | true => exact absurd ((free hf).symm.trans bound) (by decide)
      | false =>
        obtain ⟨kind, periph, -⟩ := cfgSet_of_not_bindField c.cfg v hf
        simp only [fieldWritten, kind, periph]
        exact h.kindMatches bound
    pulseNoBytes := fun pulse => by
      cases hf : isBindField f with
      | true => exact (h.unboundEmpty (free hf)).1
      | false => exact h.pulseNoBytes ((cfgSet_of_not_bindField c.cfg v hf).1.symm.trans pulse)
    builtSet := fun built => by
      obtain ⟨built, hf⟩ := kept built
      simp only [fieldWritten, hf, if_false]
      exact h.builtSet built
    builtNotNull := fun built pulse => by
      obtain ⟨built, hf⟩ := kept built
      exact h.builtNotNull built ((cfgSet_transportKind_of_ne c.cfg v hf).symm.trans pulse)
    fieldsLegal := fun g => by
      simp only [fieldWritten]
      by_cases hg : g = f
      · subst hg
        rw [cfgGet_cfgSet_same hp c.cfg g legal]
        exact .inl legal
      · rw [cfgGet_cfgSet_other c.cfg v hg]
        exact h.fieldsLegal g
    cursor := fun busy => absurd idle busy }

theorem writeField (h : ChanOk p c) (hp : p.wf) (idle : c.state = .idle) {f : CfgField} {v : Word}
    (legal : legalValue p f v = true) : ChanOk p (writeField c f v) := by
  rw [writeField_eq]
  split
  · exact (h.unbound idle).written hp idle legal fun _ => rfl
  · rename_i keep
    exact h.written hp idle legal fun hf => by simpa [hf] using keep

theorem cellWritten (h : ChanOk p c) (a : Nat) (v : Byte) : ChanOk p { c with ibuf := memPut c.ibuf a v } :=
  { h with memory := memWf_memPut _ _ _ h.memory }

theorem framesCounted (h : ChanOk p c) (n : Word) : ChanOk p { c with framesDone := n } := { h with }

theorem tableBuilt (h : ChanOk p c) (idle : c.state = .idle) {t : SymbolTable} (ht : buildTable p c = .ok t) :
    ChanOk p { c with table := t, tset := tsetFull, built := true } :=
  { h with
    inFrame := fun busy => absurd idle busy
    builtSet := fun _ => rfl
    builtNotNull := fun _ pulse => by
      simp only [buildTable, show c.cfg.transportKind = .pulse from pulse] at ht
      exact buildPulse_notNull ht }

theorem symbolSet (h : ChanOk p c) {sym : Sym} {w : Word}
    (hw : ¬(c.cfg.transportKind = .pulse ∧ mustNotBeNull sym ∧ isNull w)) :
    ChanOk p { c with table := tableSet c.table sym w, tset := tsetMark c.tset sym } :=
  { h with
    builtSet := fun built => by
      dsimp only
      rw [h.builtSet built, tsetMark_full]
    builtNotNull := fun built pulse =>
      tableSet_notNull (h.builtNotNull built pulse) fun must => by
        by_contra null
        exact hw ⟨pulse, must, by simpa using null⟩ }

theorem minFrameSet (h : ChanOk p c) (us : Word) : ChanOk p { c with minFrameUs := us } := { h with }

theorem gapSet (h : ChanOk p c) {g : Nat} (fits : gapFits g = true) :
    ChanOk p { c with table := tableSet c.table .interframeGap (gapEntry c.cfg g) } :=
  { h with
    builtNotNull := fun built pulse =>
      tableSet_notNull (h.builtNotNull built pulse) fun _ => gapEntry_not_null c.cfg fits }

theorem widthSet (h : ChanOk p c) {w : Word} (hw : between 1 8 w = true) :
    ChanOk p { c with width := w.setWidth 4 } :=
  { h with
    width := by
      rw [between_iff] at hw
      simp only [BitVec.toNat_setWidth]
      omega }

theorem claimed (h : ChanOk p c) (idle : c.state = .idle)
    (kind : p.periphKind[c.cfg.periphId.toNat]? = some c.cfg.transportKind) (baud : Word) (line : Bool)
    (pt : List PtEvent) (uart : List UartEvent) :
    ChanOk p { c with bound := true, baud := baud, line := line, ptTrace := pt, uartTrace := uart } :=
  { h with
    inFrame := fun busy => absurd idle busy
    unboundEmpty := fun unbound => by cases unbound
    kindMatches := fun _ => kind }

/-- The pacer, the statistics and the cursor at a position of the frame. -/
theorem started (h : ChanOk p c) (now : Word) {k : Word} (within : k.toNat ≤ frameLen c.cfg) :
    ChanOk p (countStart now { c with curOffset := k, curBits := 0 }) :=
  { h with
    curBits := rfl
    cursor := fun _ => within }

theorem armedPulse (h : ChanOk p c) (bound : c.bound = true) (built : c.built = true)
    (pulse : c.cfg.transportKind = .pulse) (off : c.intEn = false) {q : List Word} (items : q ≠ [])
    (fits : q.length ≤ p.ptDepth) (within : c.curOffset.toNat ≤ frameLen c.cfg) :
    ChanOk p { c with ptq := q, state := .armed, curActive := true } :=
  { h with
    active := by simp
    intEn := fun on => absurd (off.symm.trans on) (by decide)
    refilled := fun byte => absurd (pulse.symm.trans byte) (by decide)
    inFrame := fun _ => ⟨bound, built⟩
    paused := fun paused => by cases paused
    pulseQueue := fun _ => by simp [items]
    unboundEmpty := fun unbound => absurd (bound.symm.trans unbound) (by decide)
    ptqFits := fits
    byteNoItems := fun byte => absurd (pulse.symm.trans byte) (by decide)
    cursor := fun _ => within }

theorem armedByte (h : ChanOk p c) (bound : c.bound = true) (built : c.built = true)
    (byte : c.cfg.transportKind = .byte) (within : c.curOffset.toNat ≤ frameLen c.cfg) :
    ChanOk p { c with state := .armed, curActive := true, intEn := true } :=
  { h with
    active := by simp
    intEn := fun _ => ⟨byte, .inl rfl⟩
    refilled := fun _ _ => rfl
    inFrame := fun _ => ⟨bound, built⟩
    paused := fun paused => by cases paused
    pulseQueue := fun pulse => absurd (byte.symm.trans pulse) (by decide)
    cursor := fun _ => within }

/-- A channel at rest: not in a frame, nothing to refill, no item queued. -/
theorem rested (h : ChanOk p c) {intEn : Bool} {fifo : List Byte} {ptq : List Word} (off : intEn = false)
    (noItems : ptq = []) (fits : fifo.length ≤ p.fifoDepth)
    (owned : c.bound = false ∨ c.cfg.transportKind = .pulse → fifo = []) (cursor done : Word) (line : Bool)
    (trace : List PtEvent) :
    ChanOk p { c with intEn := intEn, fifo := fifo, ptq := ptq, state := .idle, curActive := false,
                      curOffset := cursor, framesDone := done, line := line, ptTrace := trace } :=
  { h with
    active := by simp
    intEn := fun on => absurd (off.symm.trans on) (by decide)
    refilled := fun _ busy => by simp at busy
    inFrame := fun busy => absurd rfl busy
    paused := fun paused => by cases paused
    pulseQueue := fun _ => by simp [noItems]
    unboundEmpty := fun unbound => ⟨owned (.inl unbound), noItems⟩
    fifoFits := fits
    ptqFits := by simp [noItems]
    byteNoItems := fun _ => noItems
    pulseNoBytes := fun pulse => owned (.inr pulse)
    cursor := fun busy => absurd rfl busy }

theorem forceIdle (h : ChanOk p c) : ChanOk p (forceIdle c) := by
  have rest (line : Bool) := h.rested rfl rfl (Nat.zero_le _) (fun _ => rfl) c.curOffset c.framesDone line c.ptTrace
  unfold Machine.forceIdle
  split
  · exact rest _
  · exact rest _

theorem paused_of_busy (h : ChanOk p c) (byte : c.cfg.transportKind = .byte)
    (busy : c.state = .armed ∨ c.state = .streaming) : ChanOk p { c with intEn := false, state := .paused } := by
  have inFrame : c.state ≠ .idle := by rcases busy with e | e <;> simp [e]
  exact
  { h with
    active := by simp [h.active.2 inFrame]
    intEn := fun on => by cases on
    refilled := fun _ busy => by simp at busy
    inFrame := fun _ => h.inFrame inFrame
    paused := fun _ => byte
    pulseQueue := fun pulse => absurd (byte.symm.trans pulse) (by decide)
    cursor := fun _ => h.cursor inFrame }

theorem resumed (h : ChanOk p c) (paused : c.state = .paused) :
    ChanOk p { c with intEn := true, state := .streaming } := by
  have inFrame : c.state ≠ .idle := by simp [paused]
  have byte := h.paused paused
  exact
  { h with
    active := by simp [h.active.2 inFrame]
    intEn := fun _ => ⟨byte, .inr rfl⟩
    refilled := fun _ _ => rfl
    inFrame := fun _ => h.inFrame inFrame
    paused := fun paused => by cases paused
    pulseQueue := fun pulse => absurd (byte.symm.trans pulse) (by decide)
    cursor := fun _ => h.cursor inFrame }

/-- The first item or the first bytes go out: an ARMED channel is STREAMING. -/
theorem streaming (h : ChanOk p c) (armed : c.state = .armed) : ChanOk p { c with state := .streaming } := by
  have inFrame : c.state ≠ .idle := by simp [armed]
  exact
  { h with
    active := by simp [h.active.2 inFrame]
    intEn := fun on => ⟨(h.intEn on).1, .inr rfl⟩
    refilled := fun byte _ => h.refilled byte (.inl armed)
    inFrame := fun _ => h.inFrame inFrame
    paused := fun paused => by cases paused
    pulseQueue := fun pulse => by simp [(h.pulseQueue pulse).2 (.inl armed)]
    cursor := fun _ => h.cursor inFrame }

/-- Bytes queued on a byte-serial channel in a frame, and the cursor moved. -/
theorem bytesQueued (h : ChanOk p c) (byte : c.cfg.transportKind = .byte) (bound : c.bound = true) {fifo : List Byte}
    {cursor : Word} (fits : fifo.length ≤ p.fifoDepth) (within : cursor.toNat ≤ frameLen c.cfg) :
    ChanOk p { c with fifo := fifo, curOffset := cursor } :=
  { h with
    unboundEmpty := fun unbound => absurd (bound.symm.trans unbound) (by decide)
    fifoFits := fits
    pulseNoBytes := fun pulse => absurd (byte.symm.trans pulse) (by decide)
    cursor := fun _ => within }

/-- The refill of a channel whose interrupt is pending (R151). -/
theorem refill {ch : ChanId} {c' : Chan} (h : ChanOk p c) (pending : irqPending c = true)
    (hr : refill p ch c = .ok c') : ChanOk p c' := by
  have on : c.intEn = true := by
    simp only [irqPending, Bool.and_eq_true] at pending
    exact pending.1
  obtain ⟨byte, busy⟩ := h.intEn on
  have inFrame : c.state ≠ .idle := by rcases busy with e | e <;> simp [e]
  have bound := (h.inFrame inFrame).1
  obtain ⟨fifo, cursor, fits, within, rfl | ⟨armed, rfl⟩ | rfl⟩ := refill_ok (h.cursor inFrame) h.fifoFits hr
  · exact h.bytesQueued byte bound fits within
  · exact (h.bytesQueued byte bound fits within).streaming armed
  · have owned : c.bound = false ∨ c.cfg.transportKind = .pulse → fifo = [] := by simp [bound, byte]
    exact h.rested rfl (h.byteNoItems byte) fits owned cursor (c.framesDone + 1) c.line c.ptTrace

theorem ptEmit (h : ChanOk p c) : ChanOk p (ptEmit c) := by
  cases hq : c.ptq with
  | nil =>
    rw [Machine.ptEmit, hq]
    exact h
  | cons d rest =>
    have some_items : c.ptq ≠ [] := by simp [hq]
    have pulse : c.cfg.transportKind = .pulse := by
      cases hk : c.cfg.transportKind with
      | pulse => rfl
      | byte => exact absurd (h.byteNoItems hk) some_items
    have busy := (h.pulseQueue pulse).1 some_items
    obtain ⟨trace, line, ⟨more, e⟩ | ⟨-, e⟩⟩ := ptEmit_cases hq <;> rw [e]
    · have shorter : ChanOk p { c with ptq := rest, ptTrace := trace, line := line } :=
        { h with
          pulseQueue := fun _ => by simp [more, busy]
          unboundEmpty := fun unbound => absurd (h.unboundEmpty unbound).2 some_items
          ptqFits := by
            have := h.ptqFits
            rw [hq, List.length_cons] at this
            exact Nat.le_of_succ_le this
          byteNoItems := fun byte => absurd (pulse.symm.trans byte) (by decide) }
      split
      · exact shorter.streaming ‹_›
      · exact shorter
    · have off : c.intEn = false := by
        by_contra on
        have := (h.intEn (by simpa using on)).1
        simp [pulse] at this
      have noBytes := h.pulseNoBytes pulse
      exact h.rested off rfl h.fifoFits (fun _ => noBytes) c.curOffset (c.framesDone + 1) c.cfg.idleLevel trace

theorem uartDrain (h : ChanOk p c) : ChanOk p (uartDrain c) := by
  cases hq : c.fifo with
  | nil =>
    rw [Machine.uartDrain, hq]
    exact h
  | cons b rest =>
    rw [uartDrain_cons hq]
    exact
    { h with
      unboundEmpty := fun unbound => absurd (h.unboundEmpty unbound).1 (by simp [hq])
      fifoFits := by
        have := h.fifoFits
        rw [hq, List.length_cons] at this
        exact Nat.le_of_succ_le this
      pulseNoBytes := fun pulse => absurd (h.pulseNoBytes pulse) (by simp [hq]) }

end ChanOk

/-! ## The machine's invariant after one channel is replaced -/

/-- The channel holds no peripheral and no pin that it did not hold before (R42). -/
def SameClaim (c d : Chan) : Prop :=
  d.bound = true → c.bound = true ∧ d.cfg.periphId = c.cfg.periphId ∧ d.cfg.pin = c.cfg.pin

theorem SameClaim.of_eq {c d : Chan} (bound : d.bound = c.bound) (cfg : d.cfg = c.cfg) : SameClaim c d :=
  fun hd => ⟨bound.symm.trans hd, by rw [cfg], by rw [cfg]⟩

theorem SameClaim.of_unbound {c d : Chan} (h : d.bound = false) : SameClaim c d :=
  fun bound => absurd (h.symm.trans bound) (by decide)

/-- A write of a field that BEGIN consumes leaves the channel unbound, and one of another field leaves the claim
(R92). -/
theorem sameClaim_writeField (c : Chan) (f : CfgField) (v : Word) : SameClaim c (writeField c f v) := by
  rw [writeField_eq]
  split
  · exact .of_unbound rfl
  · rename_i keep
    intro bound
    have other : isBindField f = false := by
      by_contra hf
      exact keep ⟨by simpa using hf, bound⟩
    obtain ⟨-, periph, pin⟩ := cfgSet_of_not_bindField c.cfg v other
    exact ⟨bound, periph, pin⟩

/-- The invariant reads the parameters, the channels and the context in force alone. -/
theorem Inv.congr {s t : State} (h : Inv s) (chans : t.chans = s.chans) (params : t.params = s.params)
    (context : t.context = s.context) : Inv t := by
  have chan (ch : ChanId) : t.chan ch = s.chan ch := by simp only [State.chan, chans]
  have nCh : t.nCh = s.nCh := by simp only [State.nCh, chans]
  refine ⟨?_, ?_, context.trans h.context, ?_, ?_⟩
  · rw [params]; exact h.params
  · rw [nCh]; exact h.channels
  · simp only [nCh, chan, params]; exact h.each
  · simp only [nCh, chan]; exact h.claims

theorem Inv.respond {s : State} (h : Inv s) (st : Status) (v : Word) : Inv (s.respond st v) := h.congr rfl rfl rfl

/-- One channel replaced by one that meets its invariant and claims nothing another bound channel holds. -/
theorem Inv.setChan {s : State} {ch : ChanId} {d : Chan} (h : Inv s) (hch : ch.toNat < s.nCh) (ok : ChanOk s.params d)
    (free : d.bound = true → ∀ o : ChanId, o.toNat < s.nCh → o ≠ ch → (s.chan o).bound = true →
      (s.chan o).cfg.periphId ≠ d.cfg.periphId ∧ (s.chan o).cfg.pin ≠ d.cfg.pin) : Inv (s.setChan ch d) := by
  refine ⟨h.params, by simpa using h.channels, h.context, fun o ho => ?_, fun a b ha hb ne => ?_⟩
  · rw [nCh_setChan] at ho
    by_cases e : o = ch
    · rw [e, chan_setChan_same hch]; exact ok
    · rw [chan_setChan_other s e]; exact h.each o ho
  · rw [nCh_setChan] at ha hb
    by_cases ea : a = ch
    · subst ea
      rw [chan_setChan_same hch, chan_setChan_other s ne.symm]
      intro boundA boundB
      obtain ⟨periph, pin⟩ := free boundA b hb ne.symm boundB
      exact ⟨periph.symm, pin.symm⟩
    · rw [chan_setChan_other s ea]
      by_cases eb : b = ch
      · subst eb
        rw [chan_setChan_same hch]
        exact fun boundA boundB => free boundB a ha ne boundA
      · rw [chan_setChan_other s eb]
        exact h.claims a b ha hb ne

theorem Inv.setChan_of_sameClaim {s : State} {ch : ChanId} {d : Chan} (h : Inv s) (hch : ch.toNat < s.nCh)
    (ok : ChanOk s.params d) (same : SameClaim (s.chan ch) d) : Inv (s.setChan ch d) := by
  refine h.setChan hch ok fun bound o ho ne boundO => ?_
  obtain ⟨held, periph, pin⟩ := same bound
  rw [periph, pin]
  exact h.claims o ch ho hch ne boundO held

/-- A channel replaced by one with the same configuration, bound or not as before. -/
theorem Inv.setChan_of_eq {s : State} {ch : ChanId} {d : Chan} (h : Inv s) (hch : ch.toNat < s.nCh)
    (ok : ChanOk s.params d) (bound : d.bound = (s.chan ch).bound) (cfg : d.cfg = (s.chan ch).cfg) :
    Inv (s.setChan ch d) :=
  h.setChan_of_sameClaim hch ok (.of_eq bound cfg)

theorem Inv.rejectBusy {s : State} {ch : ChanId} (h : Inv s) (hch : ch.toNat < s.nCh) : Inv (s.rejectBusy ch) :=
  (h.setChan_of_eq hch ((h.each ch hch).err_or (e := errPrecond) (by decide)) rfl rfl).respond _ _

/-! ## The commands of the host keep the invariant -/

/-- A command's answer meets the invariant, where it is a next state. -/
def KeepsInv : Result → Prop
  | .next t => Inv t
  | .fault _ => True
  | .refused _ => True

@[simp] theorem keepsInv_next (t : State) : KeepsInv (.next t) ↔ Inv t := Iff.rfl

theorem keepsInv_withChannel {s : State} {ch : ChanId} {k : Chan → Result} (inv : Inv s)
    (h : ch.toNat < s.nCh → ChanOk s.params (s.chan ch) → KeepsInv (k (s.chan ch))) :
    KeepsInv (withChannel ch s k) := by
  rcases withChannel_cases (rfl : withChannel ch s k = _) with ⟨-, e⟩ | ⟨hch, e⟩ <;> rw [e]
  · exact inv.congr rfl rfl rfl
  · exact h hch (inv.each ch hch)

/-- A command that every frame state but IDLE refuses (R97), on an idle channel. -/
theorem keepsInv_unlessBusy {s : State} {ch : ChanId} {r : Result} (inv : Inv s) (hch : ch.toNat < s.nCh)
    (h : (s.chan ch).state = .idle → KeepsInv r) :
    KeepsInv (if (s.chan ch).state ≠ .idle then .next (s.rejectBusy ch) else r) := by
  split
  · exact inv.rejectBusy hch
  · exact h (not_not.1 ‹_›)

/-- The commands of the interrupt context, which the host is refused (R192). -/
theorem keepsInv_interruptOnly {s : State} {ch : ChanId} (inv : Inv s) (k : Chan → Result) :
    KeepsInv (withChannel ch s fun c => interruptOnly s (k c)) :=
  keepsInv_withChannel inv fun _ _ => by
    rw [interruptOnly_host inv.context]
    exact inv.congr rfl rfl rfl

section
variable {s : State} (inv : Inv s) (ch : ChanId)
include inv

theorem execCfgWrite_keepsInv (field : Imm16) (value : Word) : KeepsInv (execCfgWrite ch field value s) := by
  refine keepsInv_withChannel inv fun hch ok => ?_
  cases fieldOfId field with
  | status _ => exact inv.respond _ _
  | unknown => exact inv.respond _ _
  | config f =>
    refine keepsInv_unlessBusy inv hch fun idle => ?_
    split
    · rename_i legal
      have kept := inv.setChan_of_sameClaim hch (ok.writeField inv.params idle legal) (sameClaim_writeField _ f value)
      exact kept.respond _ _
    · exact inv.respond _ _

theorem execCfgRead_keepsInv (field : Imm16) : KeepsInv (execCfgRead ch field s) := by
  refine keepsInv_withChannel inv fun _ _ => ?_
  cases fieldOfId field <;> exact inv.respond _ _

theorem execBufWrite_keepsInv (addr : Imm16) (data : Byte) : KeepsInv (execBufWrite ch addr data s) := by
  refine keepsInv_withChannel inv fun hch ok => ?_
  split
  · exact inv.respond _ _
  refine keepsInv_unlessBusy inv hch fun _ => ?_
  cases hw : memWrite s.params (s.chan ch) addr.toNat data with
  | error _ => trivial
  | ok d =>
    obtain ⟨-, rfl⟩ := memWrite_ok hw
    exact (inv.setChan_of_eq hch (ok.cellWritten addr.toNat data) rfl rfl).respond _ _

theorem execBufRead_keepsInv (addr : Imm16) : KeepsInv (execBufRead ch addr s) := by
  refine keepsInv_withChannel inv fun _ _ => ?_
  split
  · exact inv.respond _ _
  cases memRead s.params ch (s.chan ch) addr.toNat with
  | error _ => trivial
  | ok _ => exact inv.respond _ _

theorem execTableBuild_keepsInv : KeepsInv (execTableBuild ch s) := by
  refine keepsInv_withChannel inv fun hch ok => keepsInv_unlessBusy inv hch fun idle => ?_
  cases ht : buildTable s.params (s.chan ch) with
  | error _ => exact inv.respond _ _
  | ok t => exact (inv.setChan_of_eq hch (ok.tableBuilt idle ht) rfl rfl).respond _ _

theorem execSetSymbol_keepsInv (sym : Sym) (w : Word) : KeepsInv (execSetSymbol ch sym w s) := by
  refine keepsInv_withChannel inv fun hch ok => keepsInv_unlessBusy inv hch fun _ => ?_
  split
  · exact inv.respond _ _
  · exact (inv.setChan_of_eq hch (ok.symbolSet ‹_›) rfl rfl).respond _ _

theorem execLookup_keepsInv (sym : Sym) : KeepsInv (execLookup ch sym s) := by
  refine keepsInv_withChannel inv fun _ _ => ?_
  split <;> exact inv.respond _ _

/-- BEGIN binds only a channel whose claim no other bound channel holds, and leaves it unbound otherwise (R115). -/
theorem execBegin_keepsInv : KeepsInv (execBegin ch s) := by
  refine keepsInv_withChannel inv fun hch ok => keepsInv_unlessBusy inv hch fun idle => ?_
  have ok' := ok.unbound_if_bound idle
  have unbound : (if (s.chan ch).bound then unbind (s.chan ch) else s.chan ch).bound = false := by
    split
    · rfl
    · exact Bool.eq_false_of_not_eq_true ‹_›
  have idle' : (if (s.chan ch).bound then unbind (s.chan ch) else s.chan ch).state = .idle := by
    split <;> exact idle
  dsimp only
  generalize (if (s.chan ch).bound then unbind (s.chan ch) else s.chan ch) = c at ok' unbound idle'
  cases hb : bindChannel s ch c with
  | error _ => exact (inv.setChan_of_sameClaim hch ok' (.of_unbound unbound)).respond _ _
  | ok d =>
    obtain ⟨free, kind, same⟩ := bindChannel_ok hb
    refine (inv.setChan hch ?_ fun _ o ho ne bound => ?_).respond _ _
    · rw [same]
      exact ok'.claimed idle' kind _ _ _ _
    · rw [same]
      exact claimedByOther_false free ho ne bound

theorem renderPulse_keepsInv (hch : ch.toNat < s.nCh) (ok : ChanOk s.params (s.chan ch))
    (idle : (s.chan ch).state = .idle) (bound : (s.chan ch).bound = true) (built : (s.chan ch).built = true)
    (pulse : (s.chan ch).cfg.transportKind = .pulse) : KeepsInv (renderPulse s ch (s.chan ch)) := by
  unfold renderPulse
  split
  · exact (inv.setChan_of_eq hch (ok.err_or (e := errOversize) (by decide)) rfl rfl).respond _ _
  rename_i fits
  cases hq : pulseSequence s.params ch (pumpStart (s.chan ch)) with
  | error _ => trivial
  | ok r =>
    obtain ⟨seq, d⟩ := r
    obtain ⟨len, same, last⟩ := pulseSequence_ok rfl hq
    have count : seq.length = pulseItemCount (s.chan ch) := len
    rw [same]
    have started := ok.started s.timeUs last.le
    dsimp only
    split
    · exact (inv.setChan_of_eq hch (started.framesCounted _) rfl rfl).respond _ _
    · rename_i some_items
      have items : seq ≠ [] := fun empty => by
        rw [empty] at count
        exact some_items count.symm
      exact (inv.setChan_of_eq hch
        (started.armedPulse bound built pulse (ok.of_idle idle).2.1 items (by omega) last.le) rfl rfl).respond _ _

theorem execRender_keepsInv : KeepsInv (execRender ch s) := by
  refine keepsInv_withChannel inv fun hch ok => ?_
  split
  · exact inv.respond _ _
  rename_i ready
  obtain ⟨bound, built⟩ : (s.chan ch).bound = true ∧ (s.chan ch).built = true := by simpa using ready
  split
  · exact inv.respond _ _
  rename_i idle
  split
  · exact inv.respond _ _
  cases hk : (s.chan ch).cfg.transportKind with
  | pulse => exact renderPulse_keepsInv inv ch hch ok (not_not.1 idle) bound built hk
  | byte =>
    have start : ((0 : Word).toNat ≤ frameLen (s.chan ch).cfg) := Nat.zero_le _
    exact (inv.setChan_of_eq hch ((ok.started s.timeUs start).armedByte bound built hk start) rfl rfl).respond _ _

theorem execStop_keepsInv : KeepsInv (execStop ch s) := by
  refine keepsInv_withChannel inv fun hch ok => (inv.setChan_of_eq hch ok.forceIdle ?_ ?_).respond _ _ <;>
    unfold forceIdle <;> split <;> rfl

theorem execPause_keepsInv : KeepsInv (execPause ch s) := by
  refine keepsInv_withChannel inv fun hch ok => ?_
  split
  · rename_i acts
    exact (inv.setChan_of_eq hch (ok.paused_of_busy acts.1 acts.2) rfl rfl).respond _ _
  · exact inv.respond _ _

theorem execResume_keepsInv : KeepsInv (execResume ch s) := by
  refine keepsInv_withChannel inv fun hch ok => ?_
  split
  · exact (inv.setChan_of_eq hch (ok.resumed ‹_›) rfl rfl).respond _ _
  · exact inv.respond _ _

theorem execSetMinFrame_keepsInv (us : Word) : KeepsInv (execSetMinFrame ch us s) := by
  refine keepsInv_withChannel inv fun hch ok => keepsInv_unlessBusy inv hch fun _ => ?_
  split
  · split
    · exact (inv.setChan_of_eq hch ((ok.gapSet ‹_›).minFrameSet us) rfl rfl).respond _ _
    · exact inv.respond _ _
  · exact (inv.setChan_of_eq hch (ok.minFrameSet us) rfl rfl).respond _ _

theorem execSetWidth_keepsInv (w : Word) : KeepsInv (execSetWidth ch w s) := by
  refine keepsInv_withChannel inv fun hch ok => keepsInv_unlessBusy inv hch fun _ => ?_
  split
  · exact (inv.setChan_of_eq hch (ok.widthSet ‹_›) rfl rfl).respond _ _
  · exact inv.respond _ _

end

/-- Every command keeps the invariant (R45), which has the host context in force. -/
theorem exec_keepsInv {s : State} (inv : Inv s) (i : Instr) : KeepsInv (exec i s) := by
  cases i with
  | nop => exact inv.respond _ _
  | cfgWrite ch field value => exact execCfgWrite_keepsInv inv ch field value
  | cfgRead ch field => exact execCfgRead_keepsInv inv ch field
  | bufWrite ch addr data => exact execBufWrite_keepsInv inv ch addr data
  | bufRead ch addr => exact execBufRead_keepsInv inv ch addr
  | tableBuild ch => exact execTableBuild_keepsInv inv ch
  | setSymbol ch sym w => exact execSetSymbol_keepsInv inv ch sym w
  | lookup ch sym => exact execLookup_keepsInv inv ch sym
  | beginCh ch => exact execBegin_keepsInv inv ch
  | render ch => exact execRender_keepsInv inv ch
  | stop ch => exact execStop_keepsInv inv ch
  | pause ch => exact execPause_keepsInv inv ch
  | resume ch => exact execResume_keepsInv inv ch
  | setMinFrame ch us => exact execSetMinFrame_keepsInv inv ch us
  | setWidth ch w => exact execSetWidth_keepsInv inv ch w
  | isrFill ch => rw [exec, execIsrFill]; exact keepsInv_interruptOnly inv _
  | pumpStart ch => rw [exec, execPumpStart]; exact keepsInv_interruptOnly inv _
  | pumpMore ch => rw [exec, execPumpMore]; exact keepsInv_withChannel inv fun _ _ => inv.respond _ _
  | pumpNext ch => rw [exec, execPumpNext]; exact keepsInv_interruptOnly inv _
  | pacerQuery ch => rw [exec, execPacerQuery]; exact keepsInv_withChannel inv fun _ _ => inv.respond _ _
  | pacerRecord ch => rw [exec, execPacerRecord]; exact keepsInv_interruptOnly inv _

/-! ## The steps of the agents keep the invariant -/

theorem hostStep_keepsInv {s t : State} (inv : Inv s) (h : hostStep s = .next t) : Inv t := by
  rcases hostStep_cases h with ⟨-, rfl⟩ | ⟨w, u, v, taken, ran, rfl⟩
  · exact inv
  have inv' : Inv { u with context := .host } := by
    rw [takeCommand_frame taken]
    exact inv.congr rfl rfl inv.context.symm
  have kept : KeepsInv (runDecoded (decode s.nCh w.1 w.2) { u with context := .host }) := by
    cases decode s.nCh w.1 w.2 with
    | ok i => exact exec_keepsInv inv' i
    | error _ => exact inv'.congr rfl rfl rfl
  rw [ran, keepsInv_next] at kept
  rw [recordHost_frame]
  exact kept.congr rfl rfl rfl

/-- The interrupt's step: the refill in the interrupt context, and the host's context in force again (R151, R190). -/
theorem isrStep_keepsInv {s t : State} {ch : ChanId} (inv : Inv s) (h : isrStep ch s = .next t) : Inv t := by
  obtain ⟨u, hu, rfl⟩ := mapNext_next h
  rw [exec, execIsrFill] at hu
  rcases withChannel_cases hu with ⟨-, e⟩ | ⟨hch, e⟩
  · obtain rfl := outcome_next_inj e
    exact inv.congr rfl rfl inv.context.symm
  rw [interruptOnly_interrupt rfl] at e
  split at e
  · rename_i pending
    cases hr : refill s.enterInterrupt.params ch (s.enterInterrupt.chan ch) with
    | error _ => rw [hr] at e; cases e
    | ok d =>
      rw [hr] at e
      obtain rfl := outcome_next_inj e
      have same := refill_frame hr
      have ok := (inv.each ch hch).refill pending hr
      exact (inv.setChan_of_eq hch ok (by rw [same]; rfl) (by rw [same]; rfl)).congr rfl rfl inv.context.symm
  · obtain rfl := outcome_next_inj e
    exact inv.congr rfl rfl inv.context.symm

theorem agentStep_keepsInv {s t : State} {a : Agent} (inv : Inv s) (en : a ≠ .host → enabled s a = true)
    (h : agentStep a s = .next t) : Inv t := by
  cases a with
  | host => exact hostStep_keepsInv inv h
  | isr ch => exact isrStep_keepsInv inv h
  | pt ch =>
    have here := en (by simp)
    simp only [enabled, Bool.and_eq_true, decide_eq_true_eq] at here
    obtain rfl := outcome_next_inj h
    have same := ptEmit_frame (s.chan ch)
    exact inv.setChan_of_eq here.1 (inv.each ch here.1).ptEmit (by rw [same]) (by rw [same])
  | uart ch =>
    have here := en (by simp)
    simp only [enabled, Bool.and_eq_true, decide_eq_true_eq] at here
    obtain rfl := outcome_next_inj h
    refine inv.setChan_of_eq here.1 (inv.each ch here.1).uartDrain ?_ ?_ <;> unfold uartDrain <;> split <;> rfl
  | clock =>
    obtain rfl := outcome_next_inj h
    exact inv.congr rfl rfl rfl

/-- Settles O53: the choice of the agent moves nothing the invariant reads, and every agent's step keeps it. -/
theorem everyStepKeepsTheInvariant : Obligations.EveryStepKeepsTheInvariant := by
  intro s t inv h
  have chosen := nextMove_frame s
  have inv' : Inv (nextMove s).2 := by
    rw [chosen]
    exact inv.congr rfl rfl rfl
  refine agentStep_keepsInv inv' (fun ne => ?_) h
  rw [enabled_of_chans (nextMove_chans s) ne]
  exact nextMove_enabled s

/-! ## Reset -/

theorem chan_resetWith (p : Params) (n : Nat) (ch : ChanId) : (State.resetWith p n).chan ch = Chan.reset := by
  simp only [State.chan, State.resetWith, List.getD_eq_getElem?_getD, List.getElem?_replicate]
  split <;> rfl

/-- A channel as reset leaves it meets its invariant, whatever the parameters (R205). -/
theorem chanOk_chanReset (p : Params) : ChanOk p Chan.reset where
  active := by decide
  intEn := by decide
  refilled := by decide
  inFrame := by decide
  paused := by decide
  pulseQueue := by decide
  unboundEmpty := by decide
  fifoFits := Nat.zero_le _
  ptqFits := Nat.zero_le _
  curBits := rfl
  kindMatches := fun bound => by cases bound
  byteNoItems := by decide
  pulseNoBytes := by decide
  builtSet := by decide
  builtNotNull := by decide
  fieldsLegal := fun _ => .inr rfl
  width := by decide
  cursor := by decide
  noOverread := by decide
  memory := rfl

theorem inv_resetWith {p : Params} {n : Nat} (hp : p.wf) (pos : 1 ≤ n) (le : n ≤ 16) : Inv (State.resetWith p n) where
  params := hp
  channels := by simp [State.nCh, State.resetWith, pos, le]
  context := rfl
  each := fun ch _ => by
    rw [chan_resetWith]
    exact chanOk_chanReset p
  claims := fun a _ _ _ _ bound => by
    rw [chan_resetWith] at bound
    cases bound

/-- Settles O52: after reset no channel is bound, active or holds anything queued. -/
theorem invariantHoldsAtReset : Obligations.InvariantHoldsAtReset :=
  ⟨fun _ _ => inv_resetWith, inv_resetWith (by decide) (by decide) (by decide)⟩

/-! ## Reading a status field -/

theorem fieldOfId_statusFieldId (g : StatusField) : fieldOfId (BitVec.ofNat 16 (statusFieldId g)) = .status g := by
  cases g <;> rfl

theorem execCfgRead_status {s : State} {ch : ChanId} (hch : ch.toNat < s.nCh) {field : Imm16} {g : StatusField}
    (hf : fieldOfId field = .status g) :
    exec (.cfgRead ch field) s = .next (s.respond .ok (statusValue s (s.chan ch) g)) := by
  rw [exec, execCfgRead, withChannel_of_lt hch, hf]

theorem boolWord_eq_ofNat (b : Bool) : boolWord b = BitVec.ofNat 32 b.toNat := by cases b <;> rfl

/-- A word reads as its number. -/
theorem word_eq_ofNat (w : Word) : w = BitVec.ofNat 32 w.toNat := by
  rw [BitVec.ofNat_toNat, BitVec.setWidth_eq]

/-- Settles O14: an id finds its field (`fieldOfId_statusFieldId`), and each field's value is the number named. -/
theorem statusFieldsReadTheState : Obligations.StatusFieldsReadTheState := by
  intro s ch hch c reads
  have read (g : StatusField) {n : Nat} (hn : statusValue s c g = BitVec.ofNat 32 n) :
      reads (BitVec.ofNat 16 (statusFieldId g)) n := by
    have answer := execCfgRead_status hch (fieldOfId_statusFieldId g)
    rw [hn] at answer
    exact answer
  have narrow {k : Nat} (x : BitVec k) : x.setWidth 32 = BitVec.ofNat 32 x.toNat := (BitVec.ofNat_toNat 32 x).symm
  refine ⟨read .state ?_, read .active (boolWord_eq_ofNat _), read .curOffset (word_eq_ofNat _),
    read .curBits (narrow _), read .err (narrow _), read .minFrameUs (word_eq_ofNat _), read .width (narrow _),
    read .lastStartUs (word_eq_ofNat _), read .started (boolWord_eq_ofNat _), read .framesStarted (word_eq_ofNat _),
    read .framesDone (word_eq_ofNat _), read .bound (boolWord_eq_ofNat _), read .baud (word_eq_ofNat _),
    read .built (boolWord_eq_ofNat _), read .tset (narrow _), read .intEn (boolWord_eq_ofNat _), read .fifoCount rfl,
    read .ptqCount rfl, read .frameLen ?_, read .line (boolWord_eq_ofNat _), read .timeUs (word_eq_ofNat _),
    read .gerr (narrow _), read .nCh rfl, read .fifoDepth rfl, read .ptDepth rfl, read .bufMax rfl⟩
  · simp only [statusValue]
    cases c.state <;> rfl
  · rw [frameImage_length]
    rfl

/-! ## The time -/

/-- A command moves nothing but the channels, GERR and the response port. -/
theorem exec_frame {i : Instr} {s t : State} (h : exec i s = .next t) :
    t = { s with chans := t.chans, gerr := t.gerr, response := t.response } := by
  cases i <;>
    simp only [exec, execNop, execCfgWrite, execCfgRead, execBufWrite, execBufRead, execTableBuild, execSetSymbol,
      execLookup, execBegin, execRender, renderPulse, renderByte, execStop, execPause, execResume, execSetMinFrame,
      execSetWidth, execIsrFill, execPumpStart, execPumpMore, execPumpNext, execPacerQuery, execPacerRecord,
      withChannel, interruptOnly] at h
  all_goals repeat' split at h
  all_goals cases h
  all_goals rfl

theorem exec_timeUs {i : Instr} {s t : State} (h : exec i s = .next t) : t.timeUs = s.timeUs := by
  rw [exec_frame h]

theorem hostStep_timeUs {s t : State} (h : hostStep s = .next t) : t.timeUs = s.timeUs := by
  rcases hostStep_cases h with ⟨-, rfl⟩ | ⟨w, u, v, taken, ran, rfl⟩
  · rfl
  have before : u.timeUs = s.timeUs := by rw [takeCommand_frame taken]
  have after : v.timeUs = u.timeUs := by
    cases hd : decode s.nCh w.1 w.2 with
    | ok i =>
      rw [hd] at ran
      exact exec_timeUs (s := { u with context := .host }) ran
    | error _ =>
      rw [hd] at ran
      obtain rfl := outcome_next_inj ran
      rfl
  rw [recordHost_frame]
  exact after.trans before

/-- The step of an agent other than CLOCK leaves TIME_US (R40, R181). -/
theorem agentStep_timeUs {a : Agent} {s t : State} (ha : a ≠ .clock) (h : agentStep a s = .next t) :
    t.timeUs = s.timeUs := by
  cases a with
  | host => exact hostStep_timeUs h
  | isr ch =>
    obtain ⟨u, hu, rfl⟩ := mapNext_next h
    have same := exec_timeUs hu
    exact same
  | pt ch => obtain rfl := outcome_next_inj h; rfl
  | uart ch => obtain rfl := outcome_next_inj h; rfl
  | clock => exact absurd rfl ha

theorem nextMove_timeUs (s : State) : (nextMove s).2.timeUs = s.timeUs := by rw [nextMove_frame]

/-- The CLOCK step adds 1 modulo 2^32 to TIME_US and changes nothing else (R181). -/
theorem clockTick_eq (s : State) :
    clockTick s = { s with timeUs := BitVec.ofNat 32 ((s.timeUs.toNat + 1) % 2 ^ 32) } := by
  have next : s.timeUs + 1 = BitVec.ofNat 32 ((s.timeUs.toNat + 1) % 2 ^ 32) := by
    apply BitVec.eq_of_toNat_eq
    rw [BitVec.toNat_add, BitVec.toNat_ofNat, Nat.mod_mod]
    rfl
  rw [← next]
  rfl

/-- Settles O47: the choice of the agent leaves TIME_US, and of the agents' steps only CLOCK's moves it. -/
theorem onlyTheClockMovesTime : Obligations.OnlyTheClockMovesTime := by
  refine ⟨fun s t h notClock => ?_, fun s => ⟨rfl, fun isClock => ?_⟩, fun s ch hch => ?_, rfl⟩
  · exact (agentStep_timeUs notClock h).trans (nextMove_timeUs s)
  · rw [step_eq_agentStep, isClock, agentStep, clockTick_eq, nextMove_timeUs]
  · exact execCfgRead_status hch (fieldOfId_statusFieldId .timeUs)

/-! ## The legal values of CFG_WRITE -/

theorem exists_cfgField_of_le {n : Nat} (h : n ≤ 0x20) : ∃ f ∈ allCfgFields, cfgFieldId f = n := by
  have all : ∀ n < 0x21, ∃ f ∈ allCfgFields, cfgFieldId f = n := by decide
  exact all n (by omega)

/-- An id up to 0x20 names the configuration field of that id (R53). -/
theorem fieldOfId_of_le {field : Imm16} (h : field.toNat ≤ 0x20) :
    ∃ f, fieldOfId field = .config f ∧ cfgFieldId f = field.toNat := by
  obtain ⟨f, mem, hf⟩ := exists_cfgField_of_le h
  cases hfind : allCfgFields.find? (fun f => cfgFieldId f == field.toNat) with
  | none =>
    have := List.find?_eq_none.1 hfind f mem
    simp [hf] at this
  | some g => exact ⟨g, by simp only [fieldOfId, hfind], by simpa using List.find?_some hfind⟩

/-- Code `i` of a BIAS word is the reserved one, 0b10, by its two bits (R79). -/
theorem biasCode_eq_two_iff (v : Word) {i : Nat} (hi : i < 9) :
    biasCode (v.setWidth 18) i = 2 ↔ v.getLsbD (2 * i + 1) = true ∧ v.getLsbD (2 * i) = false := by
  have low : (biasCode (v.setWidth 18) i).getLsbD 0 = v.getLsbD (2 * i) := by
    simp [biasCode, show 2 * i < 18 by omega]
  have high : (biasCode (v.setWidth 18) i).getLsbD 1 = v.getLsbD (2 * i + 1) := by
    simp [biasCode, show 2 * i + 1 < 18 by omega]
  have bits : ∀ c : BitVec 2, c = 2 ↔ c.getLsbD 1 = true ∧ c.getLsbD 0 = false := by decide
  rw [bits, low, high]

theorem legalBias_iff (v : Word) :
    legalBias v = true ↔
      v.toNat < 2 ^ 18 ∧ ∀ i, i < 9 → ¬(v.getLsbD (2 * i + 1) = true ∧ v.getLsbD (2 * i) = false) := by
  simp only [legalBias, Bool.and_eq_true, decide_eq_true_eq, List.all_eq_true, List.mem_range, bne_iff_ne, ne_eq]
  refine and_congr_right fun _ => forall₂_congr fun i hi => ?_
  rw [biasCode_eq_two_iff v hi]

/-- The legal values of R22 and R79, by the id of the field. -/
def LegalById (p : Params) (v : Word) (id : Nat) : Prop :=
  let n := v.toNat
  ((id = 0x00 ∨ id = 0x03 ∨ id = 0x04 ∨ id = 0x07 ∨ id = 0x0A) ∧ n ≤ 1) ∨
  (id = 0x01 ∧ n < p.periphKind.length) ∨ (id = 0x02 ∧ n < p.nPin) ∨ (id = 0x05 ∧ n ≤ p.bufMax) ∨
  (id = 0x06 ∧ n ≤ 255) ∨ (id = 0x08 ∧ n ≤ 256) ∨ (id = 0x09 ∧ n ≤ p.fifoDepth) ∨
  (id = 0x0B ∧ 1 ≤ n ∧ n ≤ 4) ∨ (id = 0x0C ∧ 1 ≤ n ∧ n ≤ 255) ∨ ((id = 0x0D ∨ id = 0x10) ∧ 1 ≤ n) ∨
  (id = 0x0E ∧ 5 ≤ n ∧ n ≤ 8) ∨ (id = 0x0F ∧ 1 ≤ n ∧ n ≤ 2) ∨ (0x11 ≤ id ∧ id ≤ 0x19) ∨
  (id = 0x1A ∧ n < 2 ^ 18 ∧ ∀ i, i < 9 → ¬(v.getLsbD (2 * i + 1) = true ∧ v.getLsbD (2 * i) = false)) ∨
  ((id = 0x1B ∨ id = 0x1D ∨ id = 0x1F) ∧ n ≤ 4) ∨ (id = 0x1C ∨ id = 0x1E ∨ id = 0x20)

theorem legalById_iff (p : Params) (v : Word) (f : CfgField) :
    LegalById p v (cfgFieldId f) ↔ legalValue p f v = true := by
  have fits : v.toNat ≤ 2 ^ 32 - 1 := by have := v.isLt; omega
  cases f <;>
    simp only [LegalById, cfgFieldId, legalValue, between_iff, legalBias_iff, Nat.reduceEqDiff, Nat.reduceLeDiff,
      OfNat.ofNat_ne_zero, OfNat.zero_ne_ofNat, OfNat.ofNat_ne_one, OfNat.one_ne_ofNat, zero_ne_one, one_ne_zero,
      decide_eq_true_eq, or_self, or_true, false_and, true_and, false_or, or_false, and_self, and_false] <;>
    omega

/-- CFG_WRITE on an idle channel, by the legality of the value (R91). -/
theorem execCfgWrite_of_idle {s : State} {ch : ChanId} (hch : ch.toNat < s.nCh) (idle : (s.chan ch).state = .idle)
    {field : Imm16} {f : CfgField} (hf : fieldOfId field = .config f) (v : Word) :
    exec (.cfgWrite ch field v) s =
      if legalValue s.params f v then .next ((s.setChan ch (writeField (s.chan ch) f v)).respond .ok 0)
      else .next (s.respond .rejectRange 0) := by
  rw [exec, execCfgWrite, withChannel_of_lt hch, hf]
  simp only [idle, ne_eq, not_true_eq_false, if_false]

/-- Settles O11: the id names its field, and the value is taken exactly where it is legal (`legalById_iff`). -/
theorem cfgWriteAcceptsExactlyTheLegalValues : Obligations.CfgWriteAcceptsExactlyTheLegalValues := by
  intro s ch field v hch idle id p n legal hid
  obtain ⟨f, hf, same⟩ := fieldOfId_of_le hid
  have isLegal : legal ↔ legalValue s.params f v = true := by
    rw [← legalById_iff, same]
    exact Iff.rfl
  rw [isLegal, execCfgWrite_of_idle hch idle hf]
  refine ⟨fun yes => ?_, fun no => ?_⟩
  · rw [if_pos yes]
    exact ⟨_, rfl, rfl⟩
  · rw [if_neg no]
    rfl

end Sys2Proof.Machine
end

section
/-! PROOF. The field space and the data of a frame, of 20_memory.md: which ids name a field (R53), and what no step
changes while a channel is not idle (R65, R68, R108, R165). -/
namespace Sys2Proof.Machine

open Sys2Proof

/-! ## The field space (R53) -/

theorem cfgFieldId_le (f : CfgField) : cfgFieldId f ≤ 0x20 := by cases f <;> decide

theorem statusFieldId_range (g : StatusField) :
    (0x40 ≤ statusFieldId g ∧ statusFieldId g ≤ 0x53) ∨ (0x60 ≤ statusFieldId g ∧ statusFieldId g ≤ 0x65) := by
  cases g <;> decide

theorem cfgFieldId_of_fieldOfId {field : Imm16} {f : CfgField} (h : fieldOfId field = .config f) :
    cfgFieldId f = field.toNat := by
  unfold fieldOfId at h
  split at h
  · rename_i found
    obtain rfl := FieldName.config.inj h
    simpa using List.find?_some found
  · split at h <;> cases h

theorem statusFieldId_of_fieldOfId {field : Imm16} {g : StatusField} (h : fieldOfId field = .status g) :
    statusFieldId g = field.toNat := by
  unfold fieldOfId at h
  split at h
  · cases h
  · split at h
    · rename_i found
      obtain rfl := FieldName.status.inj h
      simpa using List.find?_some found
    · cases h

theorem exists_statusField_of_range {n : Nat} (h : (0x40 ≤ n ∧ n ≤ 0x53) ∨ (0x60 ≤ n ∧ n ≤ 0x65)) :
    ∃ g, statusFieldId g = n := by
  have all : ∀ n < 0x66, (0x40 ≤ n ∧ n ≤ 0x53) ∨ 0x60 ≤ n → ∃ g ∈ allStatusFields, statusFieldId g = n := by decide
  obtain ⟨g, -, hg⟩ := all n (by omega) (by omega)
  exact ⟨g, hg⟩

/-- An id in one of the two status ranges names the status field of that id (R53). -/
theorem fieldOfId_of_statusRange {field : Imm16}
    (h : (0x40 ≤ field.toNat ∧ field.toNat ≤ 0x53) ∨ (0x60 ≤ field.toNat ∧ field.toNat ≤ 0x65)) :
    ∃ g, fieldOfId field = .status g ∧ statusFieldId g = field.toNat := by
  obtain ⟨g, hg⟩ := exists_statusField_of_range h
  have named := fieldOfId_statusFieldId g
  rw [hg, BitVec.ofNat_toNat, BitVec.setWidth_eq] at named
  exact ⟨g, named, hg⟩

/-- An id outside the three ranges names nothing (R53). -/
theorem fieldOfId_unknown {field : Imm16} (notConfig : 0x20 < field.toNat)
    (notStatus : ¬((0x40 ≤ field.toNat ∧ field.toNat ≤ 0x53) ∨ (0x60 ≤ field.toNat ∧ field.toNat ≤ 0x65))) :
    fieldOfId field = .unknown := by
  cases hf : fieldOfId field with
  | config f =>
    have low := cfgFieldId_le f
    rw [cfgFieldId_of_fieldOfId hf] at low
    exact absurd notConfig (Nat.not_lt.2 low)
  | status g =>
    have inRange := statusFieldId_range g
    rw [statusFieldId_of_fieldOfId hf] at inRange
    exact absurd inRange notStatus
  | unknown => rfl

theorem execCfgRead_unknown {s : State} {ch : ChanId} (hch : ch.toNat < s.nCh) {field : Imm16}
    (hf : fieldOfId field = .unknown) : exec (.cfgRead ch field) s = .next (s.respond .rejectRange 0) := by
  rw [exec, execCfgRead, withChannel_of_lt hch, hf]

/-- The target check comes before the busy check: an unknown id is out of range in every frame state (R91). -/
theorem execCfgWrite_unknown {s : State} {ch : ChanId} (hch : ch.toNat < s.nCh) {field : Imm16}
    (hf : fieldOfId field = .unknown) (v : Word) :
    exec (.cfgWrite ch field v) s = .next (s.respond .rejectRange 0) := by
  rw [exec, execCfgWrite, withChannel_of_lt hch, hf]

/-- Settles O12: each id of the three ranges finds its field, and any other (`fieldOfId_unknown`) fails the target
check of both commands. -/
theorem fieldSpaceHoldsExactlyTheNamedIds : Obligations.FieldSpaceHoldsExactlyTheNamedIds := by
  intro field id
  refine ⟨fieldOfId_of_le, fieldOfId_of_statusRange, fun notConfig notStatus s ch v hch => ?_⟩
  have unknown := fieldOfId_unknown notConfig notStatus
  exact ⟨execCfgRead_unknown hch unknown, execCfgWrite_unknown hch unknown v⟩

/-! ## What a frame is made of -/

/-- What a frame is made of: configuration, table, width, claim, threshold and buffer (R65, R68, R108, R165). -/
structure FrameData where
  cfg : Cfg
  table : SymbolTable
  tset : BitVec 5
  built : Bool
  width : BitVec 4
  bound : Bool
  minFrameUs : Word
  ibuf : List Host.Cell

/-- The frame data of a channel. -/
def Chan.frameData (c : Chan) : FrameData :=
  ⟨c.cfg, c.table, c.tset, c.built, c.width, c.bound, c.minFrameUs, c.ibuf⟩

/-- The frame image reads the configuration and the buffer alone (R165). -/
theorem frameImage_congr (ch : ChanId) {c d : Chan} (cfg : d.cfg = c.cfg) (ibuf : d.ibuf = c.ibuf) :
    frameImage ch d = frameImage ch c := by
  have value : slotValue ch d = slotValue ch c := by
    funext slot
    cases slot with
    | framing b => rfl
    | cell i => simp only [slotValue, cellByte_congr ch ibuf, cfg]
  rw [frameImage, frameImage, value, cfg]

/-- The items of a frame read its image, the table and the width (R135). -/
theorem frameItems_congr (p : Params) (ch : ChanId) {c d : Chan} (image : frameImage ch d = frameImage ch c)
    (table : d.table = c.table) (width : d.width = c.width) : frameItems p ch d = frameItems p ch c := by
  simp only [frameItems, scaledFrame, image, table, width]

/-! ## Operations on a channel that keep its frame data -/

theorem forceIdle_frameData (c : Chan) : (forceIdle c).frameData = c.frameData := by
  unfold forceIdle
  split <;> rfl

theorem pumpNext_frameData {p : Params} {ch : ChanId} {c c' : Chan} {vm : Byte × Multiplier}
    (h : pumpNext p ch c = .ok (vm, c')) : c'.frameData = c.frameData := by
  rw [pumpNext_frame h]
  rfl

theorem refill_frameData {p : Params} {ch : ChanId} {c c' : Chan} (h : refill p ch c = .ok c') :
    c'.frameData = c.frameData := by
  rw [refill_frame h]
  rfl

theorem ptEmit_frameData (c : Chan) : (ptEmit c).frameData = c.frameData := by
  rw [ptEmit_frame]
  rfl

theorem uartDrain_frameData (c : Chan) : (uartDrain c).frameData = c.frameData := by
  unfold uartDrain
  split <;> rfl

/-! ## Between two states -/

/-- Every channel that is not idle before has the same frame data after. -/
def FrameDataKept (s t : State) : Prop :=
  ∀ ch : ChanId, (s.chan ch).state ≠ .idle → (t.chan ch).frameData = (s.chan ch).frameData

theorem FrameDataKept.refl (s : State) : FrameDataKept s s := fun _ _ => rfl

/-- Frame data and frame states are read off the channels. -/
theorem FrameDataKept.congr {s t s' t' : State} (h : FrameDataKept s t) (hs : s'.chans = s.chans)
    (ht : t'.chans = t.chans) : FrameDataKept s' t' := by
  intro ch
  simp only [State.chan, hs, ht]
  exact h ch

theorem FrameDataKept.respond {s t : State} (h : FrameDataKept s t) (st : Status) (v : Word) :
    FrameDataKept s (t.respond st v) := h.congr rfl rfl

/-- One channel replaced, with its frame data unless it is idle. -/
theorem frameDataKept_setChan {s : State} {ch : ChanId} {d : Chan}
    (h : (s.chan ch).state ≠ .idle → d.frameData = (s.chan ch).frameData) : FrameDataKept s (s.setChan ch d) := by
  intro o busy
  by_cases ho : o = ch
  · subst ho
    by_cases hlt : o.toNat < s.nCh
    · rw [chan_setChan_same hlt]
      exact h busy
    · have beyond : s.setChan o d = s := by
        rw [State.setChan, List.set_eq_of_length_le (Nat.le_of_not_lt hlt)]
      rw [beyond]
  · rw [chan_setChan_other s ho]

/-! ## The commands keep the frame data -/

/-- An answer keeps the frame data of the state it is given to, where it is a next state. -/
def KeepsFrameData (s : State) : Result → Prop
  | .next t => FrameDataKept s t
  | .fault _ => True
  | .refused _ => True

/-- A command that only answers. -/
theorem keepsFrameData_respond (s : State) {st : Status} {v : Word} : KeepsFrameData s (.next (s.respond st v)) :=
  (FrameDataKept.refl s).respond st v

/-- A command that replaces its channel, with the frame data of it unless it is idle, and answers. -/
theorem keepsFrameData_answer {s : State} {ch : ChanId} {d : Chan} {st : Status} {v : Word}
    (h : (s.chan ch).state ≠ .idle → d.frameData = (s.chan ch).frameData) :
    KeepsFrameData s (.next ((s.setChan ch d).respond st v)) :=
  (frameDataKept_setChan h).respond st v

theorem keepsFrameData_answer_of_idle {s : State} {ch : ChanId} {d : Chan} {st : Status} {v : Word}
    (idle : (s.chan ch).state = .idle) : KeepsFrameData s (.next ((s.setChan ch d).respond st v)) :=
  keepsFrameData_answer fun busy => absurd idle busy

theorem keepsFrameData_withChannel {s : State} {ch : ChanId} {k : Chan → Result}
    (h : KeepsFrameData s (k (s.chan ch))) : KeepsFrameData s (withChannel ch s k) := by
  rcases withChannel_cases (rfl : withChannel ch s k = _) with ⟨-, e⟩ | ⟨-, e⟩ <;> rw [e]
  · exact (FrameDataKept.refl s).congr rfl rfl
  · exact h

theorem keepsFrameData_interruptOnly {s : State} {r : Result} (h : KeepsFrameData s r) :
    KeepsFrameData s (interruptOnly s r) := by
  cases hc : s.context with
  | host => rw [interruptOnly_host hc]; exact (FrameDataKept.refl s).congr rfl rfl
  | interrupt => rw [interruptOnly_interrupt hc]; exact h

/-- A command that every frame state but IDLE refuses (R97) need only be looked at on an idle channel. -/
theorem keepsFrameData_unlessBusy {s : State} {ch : ChanId} {r : Result}
    (h : (s.chan ch).state = .idle → KeepsFrameData s r) :
    KeepsFrameData s (if (s.chan ch).state ≠ .idle then .next (s.rejectBusy ch) else r) := by
  split
  · exact keepsFrameData_answer fun _ => rfl
  · exact h (not_not.1 ‹_›)

section
variable (s : State) (ch : ChanId)

theorem execCfgWrite_keepsFrameData (field : Imm16) (value : Word) :
    KeepsFrameData s (execCfgWrite ch field value s) := by
  refine keepsFrameData_withChannel ?_
  cases fieldOfId field with
  | status _ => exact keepsFrameData_respond s
  | unknown => exact keepsFrameData_respond s
  | config f =>
    refine keepsFrameData_unlessBusy fun idle => ?_
    split
    · exact keepsFrameData_answer_of_idle idle
    · exact keepsFrameData_respond s

theorem execCfgRead_keepsFrameData (field : Imm16) : KeepsFrameData s (execCfgRead ch field s) := by
  refine keepsFrameData_withChannel ?_
  cases fieldOfId field <;> exact keepsFrameData_respond s

theorem execBufWrite_keepsFrameData (addr : Imm16) (data : Byte) :
    KeepsFrameData s (execBufWrite ch addr data s) := by
  refine keepsFrameData_withChannel ?_
  split
  · exact keepsFrameData_respond s
  refine keepsFrameData_unlessBusy fun idle => ?_
  cases memWrite s.params (s.chan ch) addr.toNat data with
  | error _ => trivial
  | ok _ => exact keepsFrameData_answer_of_idle idle

theorem execBufRead_keepsFrameData (addr : Imm16) : KeepsFrameData s (execBufRead ch addr s) := by
  refine keepsFrameData_withChannel ?_
  split
  · exact keepsFrameData_respond s
  cases memRead s.params ch (s.chan ch) addr.toNat with
  | error _ => trivial
  | ok _ => exact keepsFrameData_respond s

theorem execTableBuild_keepsFrameData : KeepsFrameData s (execTableBuild ch s) := by
  refine keepsFrameData_withChannel (keepsFrameData_unlessBusy fun idle => ?_)
  cases buildTable s.params (s.chan ch) with
  | error _ => exact keepsFrameData_respond s
  | ok _ => exact keepsFrameData_answer_of_idle idle

theorem execSetSymbol_keepsFrameData (sym : Sym) (w : Word) : KeepsFrameData s (execSetSymbol ch sym w s) := by
  refine keepsFrameData_withChannel (keepsFrameData_unlessBusy fun idle => ?_)
  split
  · exact keepsFrameData_respond s
  · exact keepsFrameData_answer_of_idle idle

theorem execLookup_keepsFrameData (sym : Sym) : KeepsFrameData s (execLookup ch sym s) := by
  refine keepsFrameData_withChannel ?_
  split <;> exact keepsFrameData_respond s

theorem execBegin_keepsFrameData : KeepsFrameData s (execBegin ch s) := by
  refine keepsFrameData_withChannel (keepsFrameData_unlessBusy fun idle => ?_)
  dsimp only
  generalize (if (s.chan ch).bound then unbind (s.chan ch) else s.chan ch) = c
  cases bindChannel s ch c <;> exact keepsFrameData_answer_of_idle idle

theorem renderPulse_keepsFrameData (idle : (s.chan ch).state = .idle) :
    KeepsFrameData s (renderPulse s ch (s.chan ch)) := by
  unfold renderPulse
  split
  · exact keepsFrameData_answer_of_idle idle
  cases pulseSequence s.params ch (pumpStart (s.chan ch)) with
  | error _ => trivial
  | ok r => dsimp only; split <;> exact keepsFrameData_answer_of_idle idle

/-- A frame starts only on an idle channel (R116). -/
theorem execRender_keepsFrameData : KeepsFrameData s (execRender ch s) := by
  refine keepsFrameData_withChannel ?_
  split
  · exact keepsFrameData_respond s
  split
  · exact keepsFrameData_respond s
  rename_i notBusy
  have idle : (s.chan ch).state = .idle := not_not.1 notBusy
  split
  · exact keepsFrameData_respond s
  cases (s.chan ch).cfg.transportKind with
  | pulse => exact renderPulse_keepsFrameData s ch idle
  | byte => exact keepsFrameData_answer_of_idle idle

theorem execStop_keepsFrameData : KeepsFrameData s (execStop ch s) :=
  keepsFrameData_withChannel (keepsFrameData_answer fun _ => forceIdle_frameData _)

theorem execPause_keepsFrameData : KeepsFrameData s (execPause ch s) := by
  refine keepsFrameData_withChannel ?_
  split
  · exact keepsFrameData_answer fun _ => rfl
  · exact keepsFrameData_respond s

theorem execResume_keepsFrameData : KeepsFrameData s (execResume ch s) := by
  refine keepsFrameData_withChannel ?_
  split
  · exact keepsFrameData_answer fun _ => rfl
  · exact keepsFrameData_respond s

theorem execSetMinFrame_keepsFrameData (us : Word) : KeepsFrameData s (execSetMinFrame ch us s) := by
  refine keepsFrameData_withChannel (keepsFrameData_unlessBusy fun idle => ?_)
  split
  · split
    · exact keepsFrameData_answer_of_idle idle
    · exact keepsFrameData_respond s
  · exact keepsFrameData_answer_of_idle idle

theorem execSetWidth_keepsFrameData (w : Word) : KeepsFrameData s (execSetWidth ch w s) := by
  refine keepsFrameData_withChannel (keepsFrameData_unlessBusy fun idle => ?_)
  split
  · exact keepsFrameData_answer_of_idle idle
  · exact keepsFrameData_respond s

theorem execIsrFill_keepsFrameData : KeepsFrameData s (execIsrFill ch s) := by
  refine keepsFrameData_withChannel (keepsFrameData_interruptOnly ?_)
  split
  · cases hr : refill s.params ch (s.chan ch) with
    | error _ => trivial
    | ok d => exact frameDataKept_setChan fun _ => refill_frameData hr
  · exact FrameDataKept.refl s

theorem execPumpNext_keepsFrameData : KeepsFrameData s (execPumpNext ch s) := by
  refine keepsFrameData_withChannel (keepsFrameData_interruptOnly ?_)
  cases hp : pumpNext s.params ch (s.chan ch) with
  | error _ => trivial
  | ok r => exact keepsFrameData_answer fun _ => pumpNext_frameData hp

theorem execPumpStart_keepsFrameData : KeepsFrameData s (execPumpStart ch s) :=
  keepsFrameData_withChannel (keepsFrameData_interruptOnly (frameDataKept_setChan fun _ => rfl))

theorem execPacerRecord_keepsFrameData : KeepsFrameData s (execPacerRecord ch s) :=
  keepsFrameData_withChannel (keepsFrameData_interruptOnly (frameDataKept_setChan fun _ => rfl))

end

/-- No command, in either context, changes the frame data of a channel that is not idle (R97). -/
theorem exec_keepsFrameData (i : Instr) (s : State) : KeepsFrameData s (exec i s) := by
  cases i with
  | nop => exact keepsFrameData_respond s
  | cfgWrite ch field value => exact execCfgWrite_keepsFrameData s ch field value
  | cfgRead ch field => exact execCfgRead_keepsFrameData s ch field
  | bufWrite ch addr data => exact execBufWrite_keepsFrameData s ch addr data
  | bufRead ch addr => exact execBufRead_keepsFrameData s ch addr
  | tableBuild ch => exact execTableBuild_keepsFrameData s ch
  | setSymbol ch sym w => exact execSetSymbol_keepsFrameData s ch sym w
  | lookup ch sym => exact execLookup_keepsFrameData s ch sym
  | beginCh ch => exact execBegin_keepsFrameData s ch
  | render ch => exact execRender_keepsFrameData s ch
  | stop ch => exact execStop_keepsFrameData s ch
  | pause ch => exact execPause_keepsFrameData s ch
  | resume ch => exact execResume_keepsFrameData s ch
  | setMinFrame ch us => exact execSetMinFrame_keepsFrameData s ch us
  | setWidth ch w => exact execSetWidth_keepsFrameData s ch w
  | isrFill ch => exact execIsrFill_keepsFrameData s ch
  | pumpStart ch => exact execPumpStart_keepsFrameData s ch
  | pumpMore ch => rw [exec, execPumpMore]; exact keepsFrameData_withChannel (keepsFrameData_respond s)
  | pumpNext ch => exact execPumpNext_keepsFrameData s ch
  | pacerQuery ch => rw [exec, execPacerQuery]; exact keepsFrameData_withChannel (keepsFrameData_respond s)
  | pacerRecord ch => exact execPacerRecord_keepsFrameData s ch

theorem frameDataKept_of_exec {i : Instr} {s t : State} (h : exec i s = .next t) : FrameDataKept s t := by
  have kept := exec_keepsFrameData i s
  rw [h] at kept
  exact kept

/-! ## The steps of the agents keep the frame data -/

theorem hostStep_frameDataKept {s t : State} (h : hostStep s = .next t) : FrameDataKept s t := by
  rcases hostStep_cases h with ⟨-, rfl⟩ | ⟨w, u, v, taken, ran, rfl⟩
  · exact .refl _
  have before : s.chans = u.chans := by rw [takeCommand_frame taken]
  have ranKept : FrameDataKept { u with context := .host } v := by
    cases hd : decode s.nCh w.1 w.2 with
    | ok i =>
      rw [hd] at ran
      exact frameDataKept_of_exec ran
    | error _ =>
      rw [hd] at ran
      obtain rfl := outcome_next_inj ran
      exact (FrameDataKept.refl _).congr rfl rfl
  rw [recordHost_frame]
  exact ranKept.congr before rfl

theorem agentStep_frameDataKept {a : Agent} {s t : State} (h : agentStep a s = .next t) : FrameDataKept s t := by
  cases a with
  | host => exact hostStep_frameDataKept h
  | isr ch =>
    obtain ⟨u, hu, rfl⟩ := mapNext_next h
    exact (frameDataKept_of_exec hu).congr rfl rfl
  | pt ch =>
    obtain rfl := outcome_next_inj h
    exact frameDataKept_setChan fun _ => ptEmit_frameData _
  | uart ch =>
    obtain rfl := outcome_next_inj h
    exact frameDataKept_setChan fun _ => uartDrain_frameData _
  | clock =>
    obtain rfl := outcome_next_inj h
    exact (FrameDataKept.refl _).congr rfl rfl

theorem step_frameDataKept {s t : State} (h : step s = .next t) : FrameDataKept s t :=
  (agentStep_frameDataKept h).congr (nextMove_chans s).symm rfl

/-- Settles O58: no step changes the frame data of a channel in a frame, and the image and the items are made of
them. -/
theorem frameDataIsConstantDuringAFrame : Obligations.FrameDataIsConstantDuringAFrame := by
  intro s t ch h busy c d
  have kept : d.frameData = c.frameData := step_frameDataKept h ch busy
  obtain ⟨cfg, table, tset, built, width, bound, minFrameUs, ibuf⟩ := FrameData.mk.inj kept
  have image := frameImage_congr ch cfg ibuf
  have items := frameItems_congr s.params ch image table width
  exact ⟨cfg, table, tset, built, width, bound, minFrameUs, ibuf, image, items⟩

end Sys2Proof.Machine
end

section
/-! PROOF. The encoding of 30_encoding.md: the decoder by format (R72, R84), its round trip with the encoder (R86), the
words that are no command (R81, R82), what those and NOP do at the command port (R83, R84, R90), and the packing of a
descriptor (R76). The decoder's table of opcodes is walked once, in `decodeShape_shape`. -/
namespace Sys2Proof.Machine

open Sys2Proof Sys2Proof.Laws

/-! ## The fields of a header (R71, R73) -/

/-- A header is made of its four fields: no bit of it is outside them. -/
theorem header_fields (w : Word) : header (opcField w) (chField w) (symField w) (immField w) = w := by
  unfold header opcField chField symField immField
  rw [BitVec.extractLsb'_append_extractLsb'_eq_extractLsb' (start₂ := 24) (start₁ := 20) rfl,
    BitVec.extractLsb'_append_extractLsb'_eq_extractLsb' (start₂ := 20) (start₁ := 16) rfl,
    BitVec.extractLsb'_append_extractLsb'_eq_extractLsb' (start₂ := 16) (start₁ := 0) rfl]
  exact BitVec.extractLsb'_eq_self

theorem symOfId_symId (s : Sym) : symOfId (symId s) = some s := by cases s <;> rfl

theorem symOfId_eq_some {id : BitVec 4} {s : Sym} (h : symOfId id = some s) : id = symId s := by
  revert id s; decide

theorem symOfId_eq_none_iff (id : BitVec 4) : symOfId id = none ↔ 4 < id.toNat := by revert id; decide

theorem opcField_encode (i : Instr) : opcField (encode i).1 = opcodeOf i := by
  cases i <;> exact opcField_header _ _ _ _

theorem chField_encode (i : Instr) : chField (encode i).1 = i.channel.getD 0 := by
  cases i <;> exact chField_header _ _ _ _

theorem wellFormed_iff (nCh : Nat) (i : Instr) :
    i.wellFormed nCh = true ↔ opcodeOf i = 0 ∨ (i.channel.getD 0).toNat < nCh := by
  cases i <;> simp [Instr.wellFormed, Instr.channel, opcodeOf]

/-! ## The formats (R72)

For each one: what it makes of a header an assembler writes, which command it answers, and which headers it refuses. -/

section Formats
variable {w0 : Word} {i : Instr}

theorem decodeF_header (o : BitVec 8) (ch : ChanId) (imm : Imm16) (k : ChanId → Imm16 → Instr) :
    decodeF (header o ch 0 imm) k = .ok (k ch imm) := by
  simp only [decodeF, symField_header, chField_header, immField_header, if_true]

theorem decodeN_header (o : BitVec 8) (ch : ChanId) (k : ChanId → Instr) :
    decodeN (header o ch 0 0) k = .ok (k ch) := by
  simp only [decodeN, symField_header, chField_header, immField_header, and_self, if_true]

theorem decodeS_header (o : BitVec 8) (ch : ChanId) (s : Sym) (k : ChanId → Sym → Instr) :
    decodeS (header o ch (symId s) 0) k = .ok (k ch s) := by
  simp only [decodeS, symField_header, chField_header, immField_header, symOfId_symId, if_true]

theorem eq_header_of_decodeF_ok {k : ChanId → Imm16 → Instr} (h : decodeF w0 k = .ok i) :
    ∃ ch imm, i = k ch imm ∧ w0 = header (opcField w0) ch 0 imm := by
  unfold decodeF at h
  split at h
  · next sym =>
    have fields := header_fields w0
    rw [sym] at fields
    exact ⟨_, _, (Except.ok.inj h).symm, fields.symm⟩
  · cases h

theorem eq_header_of_decodeN_ok {k : ChanId → Instr} (h : decodeN w0 k = .ok i) :
    ∃ ch, i = k ch ∧ w0 = header (opcField w0) ch 0 0 := by
  unfold decodeN at h
  split at h
  · next zero =>
    have fields := header_fields w0
    rw [zero.1, zero.2] at fields
    exact ⟨_, (Except.ok.inj h).symm, fields.symm⟩
  · cases h

theorem eq_header_of_decodeS_ok {k : ChanId → Sym → Instr} (h : decodeS w0 k = .ok i) :
    ∃ ch s, i = k ch s ∧ w0 = header (opcField w0) ch (symId s) 0 := by
  unfold decodeS at h
  split at h
  · next imm =>
    split at h
    · next s sym =>
      have fields := header_fields w0
      rw [imm, symOfId_eq_some sym] at fields
      exact ⟨_, s, (Except.ok.inj h).symm, fields.symm⟩
    · cases h
  · cases h

theorem decodeF_error_iff (k : ChanId → Imm16 → Instr) :
    (∃ e, decodeF w0 k = .error e) ↔ symField w0 ≠ 0 := by
  unfold decodeF
  split
  · next zero => simp [zero]
  · next nonzero => exact iff_of_true ⟨_, rfl⟩ nonzero

theorem decodeN_error_iff (k : ChanId → Instr) :
    (∃ e, decodeN w0 k = .error e) ↔ symField w0 ≠ 0 ∨ immField w0 ≠ 0 := by
  unfold decodeN
  split
  · next zero => simp [zero]
  · next nonzero => exact iff_of_true ⟨_, rfl⟩ (not_and_or.1 nonzero)

theorem decodeS_error_iff (k : ChanId → Sym → Instr) :
    (∃ e, decodeS w0 k = .error e) ↔ immField w0 ≠ 0 ∨ 4 < (symField w0).toNat := by
  rw [← symOfId_eq_none_iff]
  unfold decodeS
  split
  · next zero => cases symOfId (symField w0) <;> simp [zero]
  · next nonzero => exact iff_of_true ⟨_, rfl⟩ (.inl nonzero)

end Formats

/-! ## The table of opcodes (R80) -/

/-- An operand word with 0 in the bits that the format of a command ignores (R72, R74). -/
def operandBits (w1 : Word) : Instr → Word
  | .cfgWrite _ _ _ | .setSymbol _ _ _ | .setMinFrame _ _ | .setWidth _ _ => w1
  | .bufWrite _ _ _ => (w1.extractLsb' 0 8).setWidth 32
  | _ => 0

/-- What the decoder makes of two words, before the channel is checked: a NOP, one of the three formats by the opcode,
or nothing. Under a format, the command's encoding is the two words in the form an assembler writes them. -/
inductive Shape (w0 w1 : Word) : Except DecodeError Instr → Prop where
  | nop (opc : opcField w0 = 0) : Shape w0 w1 (.ok .nop)
  | formatF (k : ChanId → Imm16 → Instr) (opc : 1 ≤ (opcField w0).toNat ∧ (opcField w0).toNat ≤ 4)
      (enc : ∀ ch imm, encode (k ch imm) = (header (opcField w0) ch 0 imm, operandBits w1 (k ch imm))) :
      Shape w0 w1 (decodeF w0 k)
  | formatS (k : ChanId → Sym → Instr) (opc : (opcField w0).toNat = 6 ∨ (opcField w0).toNat = 7)
      (enc : ∀ ch s, encode (k ch s) = (header (opcField w0) ch (symId s) 0, operandBits w1 (k ch s))) :
      Shape w0 w1 (decodeS w0 k)
  | formatN (k : ChanId → Instr)
      (opc : (opcField w0).toNat = 5 ∨ (8 ≤ (opcField w0).toNat ∧ (opcField w0).toNat ≤ 0x14))
      (enc : ∀ ch, encode (k ch) = (header (opcField w0) ch 0 0, operandBits w1 (k ch))) :
      Shape w0 w1 (decodeN w0 k)
  | reserved (opc : 0x14 < (opcField w0).toNat) : Shape w0 w1 (.error .reservedOpcode)

theorem header_pair_congr {opc opc' : BitVec 8} (h : opc'.toNat = opc.toNat) (ch : ChanId) (sym : BitVec 4)
    (imm : Imm16) (w : Word) : (header opc ch sym imm, w) = (header opc' ch sym imm, w) := by
  rw [BitVec.eq_of_toNat_eq h]

theorem decodeShape_shape (w0 w1 : Word) : Shape w0 w1 (decodeShape w0 w1) := by
  unfold decodeShape
  split
  case h_1 opc => exact .nop (BitVec.eq_of_toNat_eq opc)
  case h_2 opc | h_3 opc | h_4 opc | h_5 opc =>
    exact .formatF _ (by omega) fun ch imm => header_pair_congr opc ch 0 imm _
  case h_7 opc | h_8 opc =>
    exact .formatS _ (by omega) fun ch s => header_pair_congr opc ch (symId s) 0 _
  case h_6 opc | h_9 opc | h_10 opc | h_11 opc | h_12 opc | h_13 opc | h_14 opc | h_15 opc | h_16 opc | h_17 opc |
      h_18 opc | h_19 opc | h_20 opc | h_21 opc =>
    exact .formatN _ (by omega) fun ch => header_pair_congr opc ch 0 0 _
  case h_22 =>
    refine .reserved ?_
    by_contra small
    interval_cases (opcField w0).toNat <;> simp_all

theorem decodeShape_of_opcField_zero {w0 : Word} (w1 : Word) (h : opcField w0 = 0) : decodeShape w0 w1 = .ok .nop := by
  simp only [decodeShape, h]
  rfl

theorem decodeShape_encode (i : Instr) : decodeShape (encode i).1 (encode i).2 = .ok i := by
  cases i
  case nop => exact decodeShape_of_opcField_zero _ (opcField_header _ _ _ _)
  case bufWrite ch addr data =>
    have low : (data.setWidth 32).extractLsb' 0 8 = data :=
      (BitVec.extractLsb'_setWidth_of_le (by decide)).trans BitVec.extractLsb'_eq_self
    rw [encode, decodeShape, opcField_header]
    exact (decodeF_header _ _ _ _).trans (by rw [low])
  case cfgWrite | cfgRead | bufRead =>
    rw [encode, decodeShape, opcField_header]
    exact decodeF_header _ _ _ _
  case setSymbol | lookup =>
    rw [encode, decodeShape, opcField_header]
    exact decodeS_header _ _ _ _
  all_goals
    rw [encode, decodeShape, opcField_header]
    exact decodeN_header _ _ _

/-- A command is decoded from its encoding, up to the bits its format ignores, or is a NOP. -/
theorem decodeShape_ok {w0 w1 : Word} {i : Instr} (h : decodeShape w0 w1 = .ok i) :
    (i = .nop ∧ opcField w0 = 0) ∨ encode i = (w0, operandBits w1 i) := by
  have shape := decodeShape_shape w0 w1
  generalize decodeShape w0 w1 = d at shape h
  cases shape with
  | nop opc => exact .inl ⟨(Except.ok.inj h).symm, opc⟩
  | formatF k _ enc =>
    obtain ⟨ch, imm, rfl, hw⟩ := eq_header_of_decodeF_ok h
    exact .inr ((enc ch imm).trans (by rw [← hw]))
  | formatS k _ enc =>
    obtain ⟨ch, s, rfl, hw⟩ := eq_header_of_decodeS_ok h
    exact .inr ((enc ch s).trans (by rw [← hw]))
  | formatN k _ enc =>
    obtain ⟨ch, rfl, hw⟩ := eq_header_of_decodeN_ok h
    exact .inr ((enc ch).trans (by rw [← hw]))
  | reserved => cases h

theorem decodeShape_error_iff (w0 w1 : Word) :
    (∃ e, decodeShape w0 w1 = .error e) ↔
      0x14 < (opcField w0).toNat ∨
      (1 ≤ (opcField w0).toNat ∧ (opcField w0).toNat ≤ 4 ∧ symField w0 ≠ 0) ∨
      (((opcField w0).toNat = 6 ∨ (opcField w0).toNat = 7) ∧ (immField w0 ≠ 0 ∨ 4 < (symField w0).toNat)) ∨
      (((opcField w0).toNat = 5 ∨ 8 ≤ (opcField w0).toNat) ∧ (symField w0 ≠ 0 ∨ immField w0 ≠ 0)) := by
  have shape := decodeShape_shape w0 w1
  generalize decodeShape w0 w1 = d at shape
  cases shape with
  | nop opc => simp [opc]
  | formatF k opc _ => rw [decodeF_error_iff]; grind
  | formatS k opc _ => rw [decodeS_error_iff]; grind
  | formatN k opc _ => rw [decodeN_error_iff]; grind
  | reserved opc => exact ⟨fun _ => .inl opc, fun _ => ⟨_, rfl⟩⟩

/-! ## The decoder with its channel check (R84) -/

theorem decode_eq_ok_iff {nCh : Nat} {w0 w1 : Word} {i : Instr} :
    decode nCh w0 w1 = .ok i ↔ decodeShape w0 w1 = .ok i ∧ i.wellFormed nCh = true := by
  cases shape : decodeShape w0 w1 with
  | error e => simp [decode, shape]
  | ok j =>
    simp only [decode, shape, Except.ok.injEq]
    split
    · next wf => simpa using fun same : j = i => same ▸ wf
    · next ill => simpa using fun same : j = i => same ▸ Bool.eq_false_iff.2 ill

/-- The channel a decoded command is checked by is the CH field of its header; NOP has no check (R82, R83). -/
theorem wellFormed_iff_of_decodeShape_ok {w0 w1 : Word} {i : Instr} (nCh : Nat) (h : decodeShape w0 w1 = .ok i) :
    i.wellFormed nCh = true ↔ opcField w0 = 0 ∨ (chField w0).toNat < nCh := by
  rcases decodeShape_ok h with ⟨rfl, opc⟩ | enc
  · simp [Instr.wellFormed, Instr.channel, opc]
  · have w0_eq : w0 = (encode i).1 := by rw [enc]
    rw [w0_eq, opcField_encode, chField_encode]
    exact wellFormed_iff nCh i

theorem decode_error_iff (nCh : Nat) (w0 w1 : Word) :
    (∃ e, decode nCh w0 w1 = .error e) ↔
      (∃ e, decodeShape w0 w1 = .error e) ∨ (opcField w0 ≠ 0 ∧ nCh ≤ (chField w0).toNat) := by
  cases shape : decodeShape w0 w1 with
  | error e => simp [decode, shape]
  | ok i =>
    have wf := wellFormed_iff_of_decodeShape_ok nCh shape
    have refused : (∃ e, decode nCh w0 w1 = .error e) ↔ ¬ i.wellFormed nCh = true := by
      simp only [decode, shape]
      split <;> simp [*]
    rw [refused, wf]
    simp

/-! ## The statements about the decoder -/

/-- Settles O1: the table of opcodes by format, then the channel check, which the command passes. -/
theorem decodeOfEncodeIsIdentity : Obligations.DecodeOfEncodeIsIdentity :=
  fun _ i wf => decode_eq_ok_iff.2 ⟨decodeShape_encode i, wf⟩

/-- A decoded command other than NOP is the one an assembler writes as these two words, 0 in every ignored bit (R72,
R86). -/
theorem encode_of_decode {nCh : Nat} {w0 w1 : Word} {i : Instr} (h : decode nCh w0 w1 = .ok i) (hi : i ≠ .nop) :
    encode i = (w0, operandBits w1 i) := by
  obtain ⟨shape, -⟩ := decode_eq_ok_iff.1 h
  exact (decodeShape_ok shape).resolve_left fun isNop => hi isNop.1

/-- Settles O2: every clause reads `encode_of_decode` off one word of the pair. -/
theorem decodedWordsAreTheAssemblersWords : Obligations.DecodedWordsAreTheAssemblersWords := by
  intro nCh w0 w1 i h
  have enc := encode_of_decode h
  refine ⟨decode_wellFormed h, fun hi => congrArg Prod.fst (enc hi), ?_, ?_, ?_, ?_, ?_⟩
  · rintro ch f v rfl
    exact congrArg Prod.snd (enc nofun)
  · rintro ch y v rfl
    exact congrArg Prod.snd (enc nofun)
  · rintro ch v rfl
    exact congrArg Prod.snd (enc nofun)
  · rintro ch v rfl
    exact congrArg Prod.snd (enc nofun)
  · rintro ch a b rfl
    have low : b.setWidth 32 = (w1.extractLsb' 0 8).setWidth 32 := congrArg Prod.snd (enc nofun)
    have number := congrArg BitVec.toNat low
    simp only [BitVec.toNat_setWidth, BitVec.extractLsb'_toNat, Nat.shiftRight_zero] at number
    omega

/-- Settles O3: what the table of opcodes refuses, or the channel check. -/
theorem exactlyTheIllegalWordsDoNotDecode : Obligations.ExactlyTheIllegalWordsDoNotDecode := by
  intro nCh w0 w1 opc
  have nonzero : opcField w0 ≠ 0 ↔ opc ≠ 0 := BitVec.toNat_inj.symm.not
  rw [decode_error_iff, decodeShape_error_iff, nonzero]
  grind

/-- Settles O5: the decoder evaluated on the words of R89. -/
theorem workedEncodingsDecode : Obligations.WorkedEncodingsDecode := by
  unfold Obligations.WorkedEncodingsDecode
  decide

/-! ## At the command port (R83, R84, R90) -/

/-- A placed command is the host's next one, taken by the very next step (log 5, log 6). -/
theorem step_placeCommand (s : State) (w0 w1 : Word) :
    step (placeCommand s w0 w1) =
      mapNext (recordHost w0 w1) (runDecoded (decode s.nCh w0 w1) { s with context := .host }) :=
  step_of_host (s' := { s with commands := (w0, w1) :: s.commands }) (u := s)
    (nextMove_of_schedule rfl rfl) rfl

/-- Settles O4: a placed command that does not decode is the shared `State.illegal`, recorded. -/
theorem undecodedWordsAnswerIllegal : Obligations.UndecodedWordsAnswerIllegal := by
  intro s w0 w1 e h
  rw [step_placeCommand, h, runDecoded, mapNext, recordHost_of_response (State.illegal_response _)]
  rfl

/-- Settles O9: the NOP arm of the table of opcodes, and the meaning of NOP. -/
theorem nopWordsAnswerOkAndChangeNothing : Obligations.NopWordsAnswerOkAndChangeNothing :=
  fun _ _ w1 h => ⟨decode_eq_ok_iff.2 ⟨decodeShape_of_opcField_zero w1 h, rfl⟩, rfl⟩

/-! ## Descriptors (R76) -/

theorem toNat_append_eq_add {m n : Nat} (x : BitVec m) (y : BitVec n) :
    (x ++ y).toNat = x.toNat * 2 ^ n + y.toNat := by
  rw [BitVec.toNat_append, ← Nat.shiftLeft_add_eq_or_of_lt y.isLt, Nat.shiftLeft_eq]

theorem desc_toNat {dh dl : Nat} (lh ll : Bool) (hdh : dh ≤ 32767) (hdl : dl ≤ 32767) :
    (desc dh lh dl ll).toNat = ll.toNat * 2 ^ 31 + dl * 2 ^ 16 + lh.toNat * 2 ^ 15 + dh := by
  simp only [desc, bit, toNat_append_eq_add, BitVec.toNat_ofBool, BitVec.toNat_ofNat]
  omega

theorem descDh_desc {dh : Nat} (lh : Bool) (dl : Nat) (ll : Bool) (h : dh ≤ 32767) : descDh (desc dh lh dl ll) = dh := by
  have field : (desc dh lh dl ll).extractLsb' 0 15 = BitVec.ofNat 15 dh := BitVec.extractLsb'_append_eq_right
  rw [descDh, field, BitVec.toNat_ofNat]
  omega

theorem descLh_desc {dh dl : Nat} (lh ll : Bool) (hdh : dh ≤ 32767) (hdl : dl ≤ 32767) :
    descLh (desc dh lh dl ll) = lh := by
  rw [descLh, ← BitVec.testBit_toNat, desc_toNat lh ll hdh hdl, Nat.testBit_eq_decide_div_mod_eq]
  cases lh <;> simp <;> omega

theorem descLl_desc {dh dl : Nat} (lh ll : Bool) (hdh : dh ≤ 32767) (hdl : dl ≤ 32767) :
    descLl (desc dh lh dl ll) = ll := by
  have lh_le : lh.toNat ≤ 1 := Bool.toNat_le lh
  rw [descLl, ← BitVec.testBit_toNat, desc_toNat lh ll hdh hdl, Nat.testBit_eq_decide_div_mod_eq]
  cases ll <;> simp <;> omega

theorem bit_getLsbD (d : Word) (k : Nat) : bit (d.getLsbD k) = d.extractLsb' k 1 := by
  ext i hi
  obtain rfl : i = 0 := by omega
  simp [bit]

/-- The two levels and the two durations are all the bits of a descriptor. -/
theorem desc_fields (d : Word) : desc (descDh d) (descLh d) (descDl d) (descLl d) = d := by
  unfold desc descDh descLh descDl descLl
  rw [bit_getLsbD, bit_getLsbD, BitVec.ofNat_toNat, BitVec.ofNat_toNat, BitVec.setWidth_eq, BitVec.setWidth_eq,
    BitVec.extractLsb'_append_extractLsb'_eq_extractLsb' (start₂ := 31) (start₁ := 16) rfl,
    BitVec.extractLsb'_append_extractLsb'_eq_extractLsb' (start₂ := 16) (start₁ := 15) rfl,
    BitVec.extractLsb'_append_extractLsb'_eq_extractLsb' (start₂ := 15) (start₁ := 0) rfl]
  exact BitVec.extractLsb'_eq_self

/-- Settles O22: the four fields of a descriptor partition its bits. -/
theorem descriptorPacksItsFourFields : Obligations.DescriptorPacksItsFourFields := by
  refine ⟨fun dh dl lh ll hdh hdl => ?_, fun d => ?_⟩
  · exact ⟨desc_toNat lh ll hdh hdl, descDh_desc lh dl ll hdh, descLh_desc lh ll hdh hdl, descDl_desc lh ll hdl,
      descLl_desc lh ll hdh hdl⟩
  · have dh_lt : descDh d < 2 ^ 15 := BitVec.isLt _
    have dl_lt : descDl d < 2 ^ 15 := BitVec.isLt _
    exact ⟨desc_fields d, by omega, by omega⟩

end Sys2Proof.Machine
end

section
/-! PROOF. The configuration and buffer commands of 40_config_and_buffer.md: what CFG_WRITE, CFG_READ, BUF_WRITE and
BUF_READ answer and change (R91 to R95), and the refusal of every change on a busy channel (R97). -/
namespace Sys2Proof.Machine

open Sys2Proof

/-! ## An answer that replaces one channel -/

theorem onlyChannel_setChan_respond (s : State) (ch : ChanId) (d : Chan) (st : Status) (v : Word) :
    OnlyChannel ch s ((s.setChan ch d).respond st v) where
  params := rfl
  nCh := nCh_setChan s ch d
  others := fun _ ne => chan_setChan_other s ne d
  timeUs := rfl
  gerr := rfl
  context := rfl
  hostTrace := rfl
  commands := rfl
  onward := rfl
  schedule := rfl
  turn := rfl
  drawn := rfl

/-! ## The refusal on a busy channel (R97, R186) -/

/-- REJECT_BUSY sets ERR.PRECOND and changes nothing else but the response port. -/
theorem rejectBusy_frame {s : State} {ch : ChanId} (hch : ch.toNat < s.nCh) :
    (s.rejectBusy ch).response = some ⟨.rejectBusy, 0⟩ ∧
      (s.rejectBusy ch).chan ch = { s.chan ch with err := (s.chan ch).err ||| 1 } ∧
      OnlyChannel ch s (s.rejectBusy ch) ∧ SameMemory s (s.rejectBusy ch) :=
  ⟨rfl, setChan_respond_frame hch { s.chan ch with err := (s.chan ch).err ||| errPrecond } .rejectBusy 0 rfl⟩

section Busy
variable {s : State} {ch : ChanId} (hch : ch.toNat < s.nCh) (busy : (s.chan ch).state ≠ .idle)
include hch busy

theorem execTableBuild_of_busy : exec (.tableBuild ch) s = .next (s.rejectBusy ch) := by
  rw [exec, execTableBuild, withChannel_of_lt hch, if_pos busy]

theorem execBegin_of_busy : exec (.beginCh ch) s = .next (s.rejectBusy ch) := by
  rw [exec, execBegin, withChannel_of_lt hch, if_pos busy]

theorem execSetSymbol_of_busy (sym : Sym) (w : Word) : exec (.setSymbol ch sym w) s = .next (s.rejectBusy ch) := by
  rw [exec, execSetSymbol, withChannel_of_lt hch, if_pos busy]

theorem execSetMinFrame_of_busy (us : Word) : exec (.setMinFrame ch us) s = .next (s.rejectBusy ch) := by
  rw [exec, execSetMinFrame, withChannel_of_lt hch, if_pos busy]

theorem execSetWidth_of_busy (w : Word) : exec (.setWidth ch w) s = .next (s.rejectBusy ch) := by
  rw [exec, execSetWidth, withChannel_of_lt hch, if_pos busy]

/-- CFG_WRITE checks its target before the frame state (R91). -/
theorem execCfgWrite_of_busy {field : Imm16} (hid : field.toNat ≤ 0x20) (v : Word) :
    exec (.cfgWrite ch field v) s = .next (s.rejectBusy ch) := by
  obtain ⟨f, hf, -⟩ := fieldOfId_of_le hid
  rw [exec, execCfgWrite, withChannel_of_lt hch, hf]
  exact if_pos busy

/-- BUF_WRITE checks its address before the frame state (R94). -/
theorem execBufWrite_of_busy {a : Imm16} (inside : a.toNat < (s.chan ch).cfg.bufLen.toNat) (b : Byte) :
    exec (.bufWrite ch a b) s = .next (s.rejectBusy ch) := by
  rw [exec, execBufWrite, withChannel_of_lt hch, if_neg (Nat.not_le.2 inside), if_pos busy]

end Busy

/-- Settles O34: each of the seven commands answers as `rejectBusy_frame` says. -/
theorem busyChannelRefusesEveryChange : Obligations.BusyChannelRefusesEveryChange := by
  intro s ch i hch busy change
  have refused : exec i s = .next (s.rejectBusy ch) := by
    rcases change with rfl | rfl | ⟨y, w, rfl⟩ | ⟨us, rfl⟩ | ⟨w, rfl⟩ | ⟨field, v, rfl, hid⟩ | ⟨a, b, rfl, inside⟩
    · exact execTableBuild_of_busy hch busy
    · exact execBegin_of_busy hch busy
    · exact execSetSymbol_of_busy hch busy y w
    · exact execSetMinFrame_of_busy hch busy us
    · exact execSetWidth_of_busy hch busy w
    · exact execCfgWrite_of_busy hch busy hid v
    · exact execBufWrite_of_busy hch busy inside b
  exact ⟨_, refused, rejectBusy_frame hch⟩

/-! ## CFG_WRITE (R91, R92) -/

/-- The ids of class T, the inputs of the timing table (R22, R23). -/
abbrev TableInputId (id : Nat) : Prop := id = 0x00 ∨ id = 0x03 ∨ id = 0x04 ∨ (0x10 ≤ id ∧ id ≤ 0x1A)

/-- The ids of class B, which BEGIN consumes (R22, R23). -/
abbrev BindFieldId (id : Nat) : Prop := id ≤ 0x04 ∨ (0x0C ≤ id ∧ id ≤ 0x0F)

theorem isTableInput_eq (f : CfgField) : isTableInput f = decide (TableInputId (cfgFieldId f)) := by cases f <;> rfl

theorem isBindField_eq (f : CfgField) : isBindField f = decide (BindFieldId (cfgFieldId f)) := by cases f <;> rfl

theorem cfgFieldId_eq_zero_iff (f : CfgField) : cfgFieldId f = 0x00 ↔ f = .transportKind := by cases f <;> decide

/-- The channel a write of field `f` leaves, each of its fields by the id of `f` (R92). -/
theorem writeField_eq_by_id (c : Chan) (f : CfgField) (v : Word) :
    writeField c f v =
      { c with cfg := cfgSet c.cfg f v
               built := c.built && decide (¬TableInputId (cfgFieldId f))
               tset := if cfgFieldId f = 0x00 then 0 else c.tset
               bound := c.bound && decide (¬BindFieldId (cfgFieldId f))
               intEn := c.intEn && decide (¬(BindFieldId (cfgFieldId f) ∧ c.bound = true))
               fifo := if BindFieldId (cfgFieldId f) ∧ c.bound = true then [] else c.fifo
               ptq := if BindFieldId (cfgFieldId f) ∧ c.bound = true then [] else c.ptq } := by
  have bindField : isBindField f = true ↔ BindFieldId (cfgFieldId f) := by rw [isBindField_eq, decide_eq_true_iff]
  simp only [writeField_eq, fieldWritten, isTableInput_eq, ← cfgFieldId_eq_zero_iff, bindField, decide_not]
  by_cases unbinds : BindFieldId (cfgFieldId f) ∧ c.bound = true
  · simp [unbinds, unbind]
  · have stays : (c.bound && !decide (BindFieldId (cfgFieldId f))) = c.bound := by
      cases bound : c.bound with
      | false => rfl
      | true => rw [decide_eq_false fun binds => unbinds ⟨binds, bound⟩]; rfl
    rw [stays]
    simp only [if_neg unbinds, decide_eq_false unbinds, Bool.not_false, Bool.and_true]

/-- The target check comes before the busy check: a status field is read-only in every frame state (R91). -/
theorem execCfgWrite_status {s : State} {ch : ChanId} (hch : ch.toNat < s.nCh) {field : Imm16} {g : StatusField}
    (hf : fieldOfId field = .status g) (v : Word) :
    exec (.cfgWrite ch field v) s = .next (s.respond .rejectRo 0) := by
  rw [exec, execCfgWrite, withChannel_of_lt hch, hf]

/-- Settles O10: the target checks, the busy check and the value check in the order of R91, and the write by the id of
its field (`writeField_eq_by_id`). -/
theorem cfgWriteFollowsItsChecksAndSideEffects : Obligations.CfgWriteFollowsItsChecksAndSideEffects := by
  intro s ch field v hch wf c id bindField tableInput
  refine ⟨fun isStatus => ?status, fun notConfig notStatus => ?unknown, fun isConfig busy => ?busy,
    fun f hf idle illegal => ?illegal, fun f hf idle legal => ?written⟩
  case status =>
    obtain ⟨g, hg, -⟩ := fieldOfId_of_statusRange isStatus
    exact execCfgWrite_status hch hg v
  case unknown => exact execCfgWrite_unknown hch (fieldOfId_unknown notConfig notStatus) v
  case busy => exact ⟨_, execCfgWrite_of_busy hch busy isConfig v, rejectBusy_frame hch⟩
  case illegal =>
    rw [execCfgWrite_of_idle hch idle hf, illegal]
    rfl
  case written =>
    have sameId : cfgFieldId f = id := cfgFieldId_of_fieldOfId hf
    have written := writeField_eq_by_id c f v
    rw [sameId] at written
    have sameBuffer : (writeField c f v).ibuf = c.ibuf := by rw [written]
    obtain ⟨now, only, memory⟩ := setChan_respond_frame hch (writeField c f v) .ok 0 sameBuffer
    refine ⟨_, cfgSet c.cfg f v, ?_, rfl, cfgGet_cfgSet_same wf c.cfg f legal,
      fun g ne => cfgGet_cfgSet_other c.cfg v ne, now.trans written, only, memory⟩
    rw [execCfgWrite_of_idle hch idle hf, if_pos legal]

/-! ## CFG_READ (R93) -/

theorem fieldOfId_cfgFieldId (f : CfgField) : fieldOfId (BitVec.ofNat 16 (cfgFieldId f)) = .config f := by
  cases f <;> rfl

theorem execCfgRead_config {s : State} {ch : ChanId} (hch : ch.toNat < s.nCh) {field : Imm16} {f : CfgField}
    (hf : fieldOfId field = .config f) :
    exec (.cfgRead ch field) s = .next (s.respond .ok (cfgGet (s.chan ch).cfg f)) := by
  rw [exec, execCfgRead, withChannel_of_lt hch, hf]

theorem zext_eq_ofNat {k : Nat} (x : BitVec k) : x.setWidth 32 = BitVec.ofNat 32 x.toNat :=
  (BitVec.ofNat_toNat 32 x).symm

theorem zext_bit_eq_ofNat (b : Bool) : (bit b).setWidth 32 = BitVec.ofNat 32 b.toNat := by cases b <;> rfl

/-- A global status field (ids from 0x60 on) is no channel's own (R44, R93). -/
theorem statusValue_of_global (s : State) (c d : Chan) {g : StatusField} (h : 0x60 ≤ statusFieldId g) :
    statusValue s c g = statusValue s d g := by
  cases g with
  | timeUs | gerr | nCh | fifoDepth | ptDepth | bufMax => rfl
  | _ => exact absurd h (by decide)

/-- Settles O13: an id finds its field (`fieldOfId_cfgFieldId`), and each field reads as the number it holds. -/
theorem cfgReadReturnsTheField : Obligations.CfgReadReturnsTheField := by
  intro s ch field hch f reads
  have read (g : CfgField) {n : Nat} (hn : cfgGet f g = BitVec.ofNat 32 n) :
      reads (BitVec.ofNat 16 (cfgFieldId g)) n := by
    have answer := execCfgRead_config hch (fieldOfId_cfgFieldId g)
    rw [hn] at answer
    exact answer
  refine ⟨⟨read .transportKind ?kind, read .periphId (zext_eq_ofNat _), read .pin (zext_eq_ofNat _),
      read .idleLevel (zext_bit_eq_ofNat _), read .invert (zext_bit_eq_ofNat _), read .bufLen (zext_eq_ofNat _),
      read .groupSize (zext_eq_ofNat _), read .pumpKind ?pump, read .brightness (zext_eq_ofNat _),
      read .fifoThresh (zext_eq_ofNat _), read .xlatEn (zext_bit_eq_ofNat _), read .bpb (zext_eq_ofNat _),
      read .lineBits (zext_eq_ofNat _), read .dataRate (word_eq_ofNat _), read .wordLen (zext_eq_ofNat _),
      read .stopBits (zext_eq_ofNat _), read .tickPs (word_eq_ofNat _), read .t0hNs (word_eq_ofNat _),
      read .t0lNs (word_eq_ofNat _), read .t1hNs (word_eq_ofNat _), read .t1lNs (word_eq_ofNat _),
      read .resetNs (word_eq_ofNat _), read .starthNs (word_eq_ofNat _), read .startlNs (word_eq_ofNat _),
      read .stophNs (word_eq_ofNat _), read .stoplNs (word_eq_ofNat _), read .bias (zext_eq_ofNat _),
      read .preLen (zext_eq_ofNat _), read .preBytes (word_eq_ofNat _), read .appLen (zext_eq_ofNat _),
      read .appBytes (word_eq_ofNat _), read .grpLen (zext_eq_ofNat _), read .grpBytes (word_eq_ofNat _)⟩,
    fun g hg => execCfgRead_config hch hg, fun g hg => execCfgRead_status hch hg,
    fun unknown => execCfgRead_unknown hch unknown, fun o g global => statusValue_of_global s _ _ global⟩
  case kind =>
    simp only [cfgGet]
    cases f.transportKind <;> rfl
  case pump =>
    simp only [cfgGet]
    cases f.pumpKind <;> rfl

/-! ## The intensity buffer: BUF_WRITE (R94) and BUF_READ (R95) -/

section Buffer
variable {s : State} {ch : ChanId} (hch : ch.toNat < s.nCh)
include hch

theorem cell_setChan_put_same (a : Nat) (b : Byte) :
    (s.setChan ch { s.chan ch with ibuf := memPut (s.chan ch).ibuf a b }).cell ch a = b := by
  rw [State.cell, chan_setChan_same hch, cellByte_put_same]

theorem cell_setChan_put_other {a : Nat} (b : Byte) {o : ChanId} {n : Nat} (ne : ¬(o = ch ∧ n = a)) :
    (s.setChan ch { s.chan ch with ibuf := memPut (s.chan ch).ibuf a b }).cell o n = s.cell o n := by
  unfold State.cell
  by_cases ho : o = ch
  · subst ho
    rw [chan_setChan_same hch, cellByte_put_other o (s.chan o) b fun hn => ne ⟨rfl, hn⟩]
  · rw [chan_setChan_other s ho]

/-- The address check comes before the busy check (R94). -/
theorem execBufWrite_of_outside {a : Imm16} (outside : (s.chan ch).cfg.bufLen.toNat ≤ a.toNat) (b : Byte) :
    exec (.bufWrite ch a b) s = .next (s.respond .rejectRange 0) := by
  rw [exec, execBufWrite, withChannel_of_lt hch, if_pos outside]

theorem execBufWrite_of_idle {a : Imm16} (inside : a.toNat < (s.chan ch).cfg.bufLen.toNat)
    (idle : (s.chan ch).state = .idle) (fits : (s.chan ch).cfg.bufLen.toNat ≤ s.params.bufMax) (b : Byte) :
    exec (.bufWrite ch a b) s =
      .next ((s.setChan ch { s.chan ch with ibuf := memPut (s.chan ch).ibuf a.toNat b }).respond .ok 0) := by
  rw [exec, execBufWrite, withChannel_of_lt hch, if_neg (Nat.not_le.2 inside), if_neg (not_not.2 idle), memWrite,
    if_pos (Nat.lt_of_lt_of_le inside fits)]

theorem execBufRead_of_outside {a : Imm16} (outside : (s.chan ch).cfg.bufLen.toNat ≤ a.toNat) :
    exec (.bufRead ch a) s = .next (s.respond .rejectRange 0) := by
  rw [exec, execBufRead, withChannel_of_lt hch, if_pos outside]

theorem execBufRead_of_inside {a : Imm16} (inside : a.toNat < (s.chan ch).cfg.bufLen.toNat)
    (fits : (s.chan ch).cfg.bufLen.toNat ≤ s.params.bufMax) :
    exec (.bufRead ch a) s = .next (s.respond .ok ((s.cell ch a.toNat).setWidth 32)) := by
  rw [exec, execBufRead, withChannel_of_lt hch, if_neg (Nat.not_le.2 inside), memRead,
    if_pos (Nat.lt_of_lt_of_le inside fits)]
  rfl

end Buffer

/-- A cell that nothing has written since reset holds its draw (R43, R95). -/
theorem cellByte_of_unwritten (ch : ChanId) {c : Chan} {a : Nat} (unwritten : memFind c.ibuf a = none) :
    cellByte ch c a = Config.ibufInit ch.toNat a := by
  rw [cellByte, unwritten, Option.getD_none]

/-- Settles O15: the address check, the busy check, and the write of one cell. -/
theorem bufWriteStoresOneByte : Obligations.BufWriteStoresOneByte := by
  intro s ch a b hch c
  refine ⟨fun outside => execBufWrite_of_outside hch outside b, fun inside busy => ?busy,
    fun inside idle fits => ?written⟩
  case busy => exact ⟨_, execBufWrite_of_busy hch busy inside b, rejectBusy_frame hch⟩
  case written =>
    have now := chan_setChan_same hch { c with ibuf := memPut c.ibuf a.toNat b }
    refine ⟨_, execBufWrite_of_idle hch inside idle fits b, rfl, cell_setChan_put_same hch a.toNat b,
      fun o n ne => cell_setChan_put_other hch b ne, ?_, onlyChannel_setChan_respond .., fun canonical => ?_⟩
    · rw [chan_respond, now]
    · rw [chan_respond, now]
      exact memWf_memPut _ _ _ canonical

/-- Settles O16: a read of a cell that the RAM has gives its byte, and that of an unwritten one is the draw. -/
theorem bufReadReturnsTheCell : Obligations.BufReadReturnsTheCell := by
  intro s ch a hch
  refine ⟨fun outside => execBufRead_of_outside hch outside, fun inside fits => ?_, cellByte_of_unwritten ch⟩
  rw [execBufRead_of_inside hch inside fits, zext_eq_ofNat]
  rfl

end Sys2Proof.Machine
end

section
/-! PROOF. The timing table of 41_timing_table.md: tick conversion and entries (R101 to R104), what TABLE_BUILD computes
and what it refuses (R105), SET_SYMBOL (R106) and LOOKUP (R107). -/
namespace Sys2Proof.Machine

open Sys2Proof

/-! ## Tick conversion (R79, R101) -/

/-- A BIAS code counts one tick where its low bit is set, downwards where its high bit is set too (R79). -/
theorem biasOfCode_eq_by_bits (code : BitVec 2) :
    biasOfCode code = if code.getLsbD 0 then (if code.getLsbD 1 then -1 else 1) else 0 := by
  revert code; decide

theorem nsBias_eq_by_bits (f : Cfg) (i : Nat) :
    nsBias f i = if f.bias.getLsbD (2 * i) then (if f.bias.getLsbD (2 * i + 1) then -1 else 1) else 0 := by
  rw [nsBias, biasOfCode_eq_by_bits]
  simp [biasCode]

/-- `ticks` of constant `i`, before it is known not to be negative (R101, log 19). -/
def tickCount (f : Cfg) (i : Nat) : Int := ticksOf f.tickPs (nsConstant f i) (nsBias f i)

theorem constantTicks_eq_tickCount (f : Cfg) (i : Nat) : constantTicks f i = (tickCount f i).toNat := rfl

/-- The range that a constant's ticks must be in (R101). -/
def TicksFit (f : Cfg) (i : Nat) : Prop := 0 ≤ tickCount f i ∧ tickCount f i ≤ 32767

theorem constantValid_iff {f : Cfg} (tick : f.tickPs ≠ 0) (i : Nat) : constantValid f i = true ↔ TicksFit f i := by
  have positive : 1 ≤ f.tickPs.toNat := Nat.pos_of_ne_zero fun zero => tick (BitVec.eq_of_toNat_eq zero)
  simp only [constantValid, validTicks, Bool.and_eq_true, decide_eq_true_eq, positive, true_and]
  rfl

theorem TicksFit.cast_constantTicks {f : Cfg} {i : Nat} (fit : TicksFit f i) :
    (constantTicks f i : Int) = tickCount f i := by
  rw [constantTicks_eq_tickCount]
  exact Int.toNat_of_nonneg fit.1

theorem TicksFit.constantTicks_le {f : Cfg} {i : Nat} (fit : TicksFit f i) : constantTicks f i ≤ 32767 := by
  rw [constantTicks_eq_tickCount]
  exact Int.toNat_le.2 fit.2

theorem gapFits_iff (g : Nat) : gapFits g = true ↔ 1 ≤ g ∧ g ≤ 32767 := by
  rw [gapFits, Bool.and_eq_true, decide_eq_true_eq, decide_eq_true_eq, durMax]

/-! ## NULL words and entries (R102, R103) -/

/-- NULL by the word's number: bits 14..0 and 30..16 are zero (R103, R106). -/
theorem isNull_iff (w : Word) : isNull w = true ↔ w.toNat % 2 ^ 15 = 0 ∧ w.toNat / 2 ^ 16 % 2 ^ 15 = 0 := by
  simp [isNull, descDh, descDl, Nat.shiftRight_eq_div_pow]

theorem isNull_desc_iff {dh dl : Nat} (lh ll : Bool) (hdh : dh ≤ 32767) (hdl : dl ≤ 32767) :
    isNull (desc dh lh dl ll) = true ↔ dh = 0 ∧ dl = 0 := by
  rw [isNull, descDh_desc lh dl ll hdh, descDl_desc lh ll hdl, Bool.and_eq_true, beq_iff_eq, beq_iff_eq]

section Entry
variable {f : Cfg} {hi lo : Nat} (high : TicksFit f hi) (low : TicksFit f lo)
include high low

theorem pulseEntry_fields :
    (descDh (pulseEntry f hi lo) : Int) = tickCount f hi ∧ descLh (pulseEntry f hi lo) = !f.invert ∧
      (descDl (pulseEntry f hi lo) : Int) = tickCount f lo ∧ descLl (pulseEntry f hi lo) = f.invert := by
  have hdh := high.constantTicks_le
  have hdl := low.constantTicks_le
  rw [pulseEntry, descDh_desc _ _ _ hdh, descLh_desc _ _ hdh hdl, descDl_desc _ _ hdl, descLl_desc _ _ hdh hdl,
    Bool.true_xor, Bool.false_xor]
  exact ⟨high.cast_constantTicks, rfl, low.cast_constantTicks, rfl⟩

theorem isNull_pulseEntry_iff : isNull (pulseEntry f hi lo) = true ↔ tickCount f hi = 0 ∧ tickCount f lo = 0 := by
  rw [pulseEntry, isNull_desc_iff _ _ high.constantTicks_le low.constantTicks_le, ← high.cast_constantTicks,
    ← low.cast_constantTicks, Int.natCast_eq_zero, Int.natCast_eq_zero]

end Entry

theorem gapEntry_fields (f : Cfg) {g : Nat} (fits : g ≤ 32767) :
    descDh (gapEntry f g) = 0 ∧ descLh (gapEntry f g) = f.idleLevel ∧ descDl (gapEntry f g) = g ∧
      descLl (gapEntry f g) = f.idleLevel :=
  ⟨descDh_desc _ _ _ (Nat.zero_le _), descLh_desc _ _ (Nat.zero_le _) fits, descDl_desc _ _ fits,
    descLl_desc _ _ (Nat.zero_le _) fits⟩

/-! ## Construction of a pulse-train table (R105)

An equation for each check up to the constants, and one for the checks of the gap and the entries after them. -/

section BuildPulse
variable (p : Params) {c : Chan}

theorem buildPulse_of_tickPs_zero (unset : c.cfg.tickPs = 0) : buildPulse p c = .error 0x0100 := by
  rw [buildPulse, if_pos unset]

variable (tick : c.cfg.tickPs ≠ 0)
include tick

theorem buildPulse_of_first_unfit {i : Nat} (hi : i < 9) (unfit : ¬TicksFit c.cfg i)
    (before : ∀ j, j < i → TicksFit c.cfg j) : buildPulse p c = .error (BitVec.ofNat 32 (0x0200 + i)) := by
  have found : (List.range 9).find? (fun i => !constantValid c.cfg i) = some i := by
    refine List.find?_range_eq_some.2 ⟨?_, List.mem_range.2 hi, fun j hj => ?_⟩
    · rw [Bool.not_eq_true', ← Bool.not_eq_true, constantValid_iff tick]
      exact unfit
    · rw [Bool.not_not, constantValid_iff tick]
      exact before j hj
  rw [buildPulse, if_neg tick, found]

variable (fit : ∀ i, i < 9 → TicksFit c.cfg i)
include fit

/-- The checks that are left once the tick length and the nine constants have passed. -/
theorem buildPulse_of_fit :
    buildPulse p c =
      if gapFits (gapFor p c.cfg c.minFrameUs) = false then .error 0x0500
      else if tickCount c.cfg 0 = 0 ∧ tickCount c.cfg 1 = 0 then .error 0x0300
      else if tickCount c.cfg 2 = 0 ∧ tickCount c.cfg 3 = 0 then .error 0x0301
      else .ok (pulseTable c.cfg (gapFor p c.cfg c.minFrameUs)) := by
  have none_found : (List.range 9).find? (fun i => !constantValid c.cfg i) = none := by
    refine List.find?_range_eq_none.2 fun i hi => ?_
    rw [Bool.not_not, constantValid_iff tick]
    exact fit i hi
  rw [buildPulse, if_neg tick, none_found]
  simp only [pulseTable, isNull_pulseEntry_iff (fit 0 (by decide)) (fit 1 (by decide)),
    isNull_pulseEntry_iff (fit 2 (by decide)) (fit 3 (by decide)), Bool.not_eq_true']

end BuildPulse

/-! ## The TSET bits and the entries of a table (R29, R30) -/

theorem symIndex_lt (y : Sym) : symIndex y < 5 := by cases y <;> decide

theorem exists_symIndex_eq {i : Nat} (hi : i < 5) : ∃ y, symIndex y = i := by
  have all : ∀ i < 5, ∃ y ∈ allSyms, symIndex y = i := by decide
  obtain ⟨y, -, hy⟩ := all i hi
  exact ⟨y, hy⟩

/-- The symbols are listed in the order of their ids (R73). -/
theorem getElem_allSyms (y : Sym) : allSyms[symIndex y]'(symIndex_lt y) = y := by cases y <;> rfl

theorem symIndex_injective : Function.Injective symIndex := by
  intro a b h
  rw [← getElem_allSyms a, ← getElem_allSyms b]
  exact getElem_congr_idx h

theorem symIndex_getElem_allSyms {i : Nat} (hi : i < 5) : symIndex (allSyms[i]'hi) = i := by
  obtain ⟨y, rfl⟩ := exists_symIndex_eq hi
  rw [getElem_allSyms]

theorem tableGet_tableSet_same (t : SymbolTable) (y : Sym) (w : Word) : tableGet (tableSet t y w) y = w := by
  cases y <;> rfl

theorem tableGet_tableSet_other (t : SymbolTable) {y o : Sym} (w : Word) (ne : o ≠ y) :
    tableGet (tableSet t y w) o = tableGet t o := by
  cases y <;> cases o <;> first | rfl | exact absurd rfl ne

theorem getLsbD_tsetMark (t : BitVec 5) (y : Sym) (i : Nat) :
    (tsetMark t y).getLsbD i = (t.getLsbD i || decide (i = symIndex y)) := by
  have power : tsetMark t y = t ||| BitVec.twoPow 5 (symIndex y) := by
    rw [BitVec.twoPow_eq]
    rfl
  rw [power, BitVec.getLsbD_or, BitVec.getLsbD_twoPow, decide_eq_true (symIndex_lt y), Bool.true_and]
  exact congrArg _ (decide_eq_decide.2 eq_comm)

/-! ## Construction of a byte-serial table (R105) -/

theorem buildByte_of_all_set {c : Chan} (set : ∀ y, tsetGet c.tset y = true) : buildByte c = .ok c.table := by
  have none_found : allSyms.find? (fun y => !tsetGet c.tset y) = none :=
    List.find?_eq_none.2 fun y _ => by simp [set y]
  rw [buildByte, none_found]

theorem buildByte_of_first_unset {c : Chan} {y : Sym} (unset : tsetGet c.tset y = false)
    (before : ∀ o, symIndex o < symIndex y → tsetGet c.tset o = true) :
    buildByte c = .error (BitVec.ofNat 32 (0x0400 + symIndex y)) := by
  have found : allSyms.find? (fun y => !tsetGet c.tset y) = some y := by
    refine List.find?_eq_some_iff_getElem.2 ⟨?_, symIndex y, symIndex_lt y, getElem_allSyms y, fun i hi => ?_⟩
    · rw [unset, Bool.not_false]
    · rw [Bool.not_not]
      exact before _ ((symIndex_getElem_allSyms (hi.trans (symIndex_lt y))).trans_lt hi)
  rw [buildByte, found]

/-! ## TABLE_BUILD (R105) -/

section TableBuild
variable {s : State} {ch : ChanId} (hch : ch.toNat < s.nCh) (idle : (s.chan ch).state = .idle)
include hch idle

theorem execTableBuild_of_error {reason : Word} (built : buildTable s.params (s.chan ch) = .error reason) :
    exec (.tableBuild ch) s = .next (s.respond .tableErr reason) := by
  rw [exec, execTableBuild, withChannel_of_lt hch, if_neg (not_not.2 idle), built]

theorem execTableBuild_of_ok {tab : SymbolTable} (built : buildTable s.params (s.chan ch) = .ok tab) :
    exec (.tableBuild ch) s =
      .next ((s.setChan ch { s.chan ch with table := tab, tset := tsetFull, built := true }).respond .ok 0) := by
  rw [exec, execTableBuild, withChannel_of_lt hch, if_neg (not_not.2 idle), built]

end TableBuild

theorem buildTable_of_pulse (p : Params) {c : Chan} (pulse : c.cfg.transportKind = .pulse) :
    buildTable p c = buildPulse p c := by rw [buildTable, pulse]

theorem buildTable_of_byte (p : Params) {c : Chan} (byte : c.cfg.transportKind = .byte) :
    buildTable p c = buildByte c := by rw [buildTable, byte]

/-- Settles O17: all checks of `buildPulse_of_fit` pass, and the entries are those of `pulseEntry_fields` and
`gapEntry_fields`. -/
theorem tableBuildComputesThePulseEntries : Obligations.TableBuildComputesThePulseEntries := by
  refine ⟨fun _ _ _ => rfl, ?_⟩
  intro s ch hch c f bias q good g entry idle pulse tick h0 h1 h2 h3 h4 h5 h6 h7 h8 gapLow gapHigh zero one
  have count (i : Nat) : tickCount f i = q (nsConstant f i) i := by
    rw [tickCount, nsBias_eq_by_bits]
    rfl
  have fit : ∀ i, i < 9 → TicksFit f i := by
    intro i hi
    rw [TicksFit, count]
    interval_cases i
    exacts [h0, h1, h2, h3, h4, h5, h6, h7, h8]
  have gap : gapFor s.params f c.minFrameUs = g := by
    rw [gapFor, constantTicks_eq_tickCount, count]
    rfl
  have built : buildTable s.params c = .ok (pulseTable f g) := by
    rw [buildTable_of_pulse _ pulse, buildPulse_of_fit _ tick fit, gap, (gapFits_iff g).2 ⟨gapLow, gapHigh⟩,
      if_neg (by decide), count, count, count, count, if_neg, if_neg]
    · exact fun null => one.elim (fun h => h.ne' null.1) fun h => h.ne' null.2
    · exact fun null => zero.elim (fun h => h.ne' null.1) fun h => h.ne' null.2
  obtain ⟨now, only, memory⟩ :=
    setChan_respond_frame hch { c with table := pulseTable f g, tset := tsetFull, built := true } .ok 0 rfl
  have fields {hi lo : Nat} (hhi : hi < 9) (hlo : lo < 9) :
      entry (pulseEntry f hi lo) (q (nsConstant f hi) hi) (q (nsConstant f lo) lo) := by
    rw [← count, ← count]
    exact pulseEntry_fields (fit hi hhi) (fit lo hlo)
  exact ⟨_, _, execTableBuild_of_ok hch idle built, rfl, now, only, memory, fields (by decide) (by decide),
    fields (by decide) (by decide), fields (by decide) (by decide), fields (by decide) (by decide),
    gapEntry_fields f gapHigh⟩

/-- Settles O18: one equation of `buildPulse` for the checks up to the constants, and `buildPulse_of_fit` after. -/
theorem tableBuildReportsTheFirstFailure : Obligations.TableBuildReportsTheFirstFailure := by
  intro s ch hch c f k bias q good g fails idle pulse
  have constant {i : Nat} (hi : i < 9) : nsConstant f i = k.getD i 0 := by interval_cases i <;> rfl
  have count {i : Nat} (hi : i < 9) : tickCount f i = q i := by
    rw [tickCount, constant hi, nsBias_eq_by_bits]
    rfl
  have fit_iff {i : Nat} (hi : i < 9) : TicksFit f i ↔ good i := by rw [TicksFit, count hi]
  have gap : gapFor s.params f c.minFrameUs = g := by
    rw [gapFor, constantTicks_eq_tickCount, count (by decide)]
  have reports {reason : Word} (built : buildPulse s.params c = .error reason) : fails reason :=
    execTableBuild_of_error hch idle ((buildTable_of_pulse _ pulse).trans built)
  refine ⟨fun unset => reports (buildPulse_of_tickPs_zero _ unset), fun tick i hi unfit before => ?_,
    fun tick allGood => ?_⟩
  · exact reports (buildPulse_of_first_unfit _ tick hi (fun fit => unfit ((fit_iff hi).1 fit))
      fun j hj => (fit_iff (hj.trans hi)).2 (before j hj))
  have checks := buildPulse_of_fit s.params tick fun i hi => (fit_iff hi).2 (allGood i hi)
  rw [gap, count (by decide), count (by decide), count (by decide), count (by decide)] at checks
  refine ⟨fun outside => reports ?_, fun low high zeroHigh zeroLow => reports ?_,
    fun low high notNull oneHigh oneLow => reports ?_⟩
  · rw [checks, if_pos (Bool.eq_false_iff.2 fun fits => outside ((gapFits_iff g).1 fits))]
  · rw [checks, (gapFits_iff g).2 ⟨low, high⟩, if_neg (by decide), if_pos ⟨zeroHigh, zeroLow⟩]
  · rw [checks, (gapFits_iff g).2 ⟨low, high⟩, if_neg (by decide), if_neg notNull, if_pos ⟨oneHigh, oneLow⟩]

/-- Settles O19: the table stands as it is where all TSET bits are set, and the first unset one is reported. -/
theorem tableBuildChecksTheByteSymbols : Obligations.TableBuildChecksTheByteSymbols := by
  intro s ch hch c idle byte
  refine ⟨fun set => ?_, fun i hi unset before => ?_⟩
  · have built : buildTable s.params c = .ok c.table :=
      (buildTable_of_byte _ byte).trans (buildByte_of_all_set fun y => set _ (symIndex_lt y))
    exact ⟨_, execTableBuild_of_ok hch idle built, rfl, setChan_respond_frame hch _ .ok 0 rfl⟩
  · obtain ⟨y, rfl⟩ := exists_symIndex_eq hi
    exact execTableBuild_of_error hch idle
      ((buildTable_of_byte _ byte).trans (buildByte_of_first_unset unset fun o ho => before _ ho))

/-! ## SET_SYMBOL (R106) -/

/-- The required symbols of a pulse-train table (R103). -/
theorem mustNotBeNull_iff (y : Sym) : mustNotBeNull y = true ↔ y = .zeroBit ∨ y = .oneBit ∨ y = .interframeGap := by
  cases y <;> decide

section SetSymbol
variable {s : State} {ch : ChanId} {y : Sym} {w : Word} (hch : ch.toNat < s.nCh) (idle : (s.chan ch).state = .idle)
include hch idle

theorem execSetSymbol_of_null
    (null : (s.chan ch).cfg.transportKind = .pulse ∧ mustNotBeNull y = true ∧ isNull w = true) :
    exec (.setSymbol ch y w) s = .next (s.respond .rejectRange 0) := by
  rw [exec, execSetSymbol, withChannel_of_lt hch, if_neg (not_not.2 idle), if_pos null]

theorem execSetSymbol_of_accepted
    (accepted : ¬((s.chan ch).cfg.transportKind = .pulse ∧ mustNotBeNull y = true ∧ isNull w = true)) :
    exec (.setSymbol ch y w) s =
      .next ((s.setChan ch { s.chan ch with table := tableSet (s.chan ch).table y w
                                            tset := tsetMark (s.chan ch).tset y }).respond .ok 0) := by
  rw [exec, execSetSymbol, withChannel_of_lt hch, if_neg (not_not.2 idle), if_neg accepted]

end SetSymbol

/-- Settles O20: the busy check, the NULL check by the number of the word, and the write of one entry and one bit. -/
theorem setSymbolReplacesOneEntry : Obligations.SetSymbolReplacesOneEntry := by
  intro s ch y w hch c id null refused
  have id_eq (o : Sym) : id o = symIndex o := by cases o <;> rfl
  have refused_iff : (c.cfg.transportKind = .pulse ∧ mustNotBeNull y = true ∧ isNull w = true) ↔ refused := by
    rw [mustNotBeNull_iff, isNull_iff]
  refine ⟨fun busy => ⟨_, execSetSymbol_of_busy hch busy y w, rejectBusy_frame hch⟩,
    fun idle bad => execSetSymbol_of_null hch idle (refused_iff.2 bad), fun idle accepted => ?_⟩
  obtain ⟨now, only, memory⟩ :=
    setChan_respond_frame hch { c with table := tableSet c.table y w, tset := tsetMark c.tset y } .ok 0 rfl
  refine ⟨_, _, _, execSetSymbol_of_accepted hch idle (refused_iff.not.2 accepted), rfl, now,
    tableGet_tableSet_same _ y w, fun o ne => tableGet_tableSet_other _ w ne, ?_, fun o ne => ?_, only, memory⟩
  · rw [id_eq, getLsbD_tsetMark, decide_eq_true rfl, Bool.or_true]
  · rw [id_eq, getLsbD_tsetMark, decide_eq_false (symIndex_injective.ne ne), Bool.or_false]

/-! ## LOOKUP (R107) -/

section Lookup
variable {s : State} {ch : ChanId} (hch : ch.toNat < s.nCh) (y : Sym)
include hch

theorem execLookup_of_built (built : (s.chan ch).built = true) :
    exec (.lookup ch y) s = .next (s.respond .ok (tableGet (s.chan ch).table y)) := by
  rw [exec, execLookup, withChannel_of_lt hch, if_pos built]

theorem execLookup_of_not_built (notBuilt : (s.chan ch).built = false) :
    exec (.lookup ch y) s = .next (s.respond .notReady 0) := by
  rw [exec, execLookup, withChannel_of_lt hch, if_neg (Bool.eq_false_iff.1 notBuilt)]

end Lookup

theorem tsetGet_full (y : Sym) : tsetGet tsetFull y = true := by cases y <;> rfl

/-- Settles O21: both answers, and the clause of the invariant that a built table has every symbol set. -/
theorem lookupReturnsTheEntry : Obligations.LookupReturnsTheEntry := by
  intro s ch y hch entry
  have read : tableGet (s.chan ch).table y = entry := by cases y <;> rfl
  refine ⟨read, fun built => ?_, execLookup_of_not_built hch y, fun inv built => ?_⟩
  · rw [← read]
    exact execLookup_of_built hch y built
  · rw [(inv.each ch hch).builtSet built]
    exact tsetGet_full y

end Sys2Proof.Machine
end

section
/-! PROOF. Transport control, of 42_transport_control.md: what BEGIN, RENDER, STOP, PAUSE, RESUME, SET_MIN_FRAME and
SET_WIDTH answer and change (R115 to R121, R123), how a loaded pulse queue drains (R126, R140, R141), and that STATE
moves by the table of R122 alone. -/
namespace Sys2Proof.Machine

open Sys2Proof

/-! ## STOP, PAUSE and RESUME (R117 to R119) -/

section Control
variable {s : State} {ch : ChanId} (hch : ch.toNat < s.nCh)
include hch

theorem execStop_eq : exec (.stop ch) s = .next ((s.setChan ch (forceIdle (s.chan ch))).respond .ok 0) := by
  rw [exec, execStop, withChannel_of_lt hch]

theorem execPause_of_pauses (byte : (s.chan ch).cfg.transportKind = .byte)
    (busy : (s.chan ch).state = .armed ∨ (s.chan ch).state = .streaming) :
    exec (.pause ch) s =
      .next ((s.setChan ch { s.chan ch with intEn := false, state := .paused }).respond .ok 0) := by
  rw [exec, execPause, withChannel_of_lt hch, if_pos ⟨byte, busy⟩]

theorem execPause_of_not_pauses (idles : ¬((s.chan ch).cfg.transportKind = .byte ∧
    ((s.chan ch).state = .armed ∨ (s.chan ch).state = .streaming))) :
    exec (.pause ch) s = .next (s.respond .ok 0) := by
  rw [exec, execPause, withChannel_of_lt hch, if_neg idles]

theorem execResume_of_paused (paused : (s.chan ch).state = .paused) :
    exec (.resume ch) s =
      .next ((s.setChan ch { s.chan ch with intEn := true, state := .streaming }).respond .ok 0) := by
  rw [exec, execResume, withChannel_of_lt hch, if_pos paused]

theorem execResume_of_not_paused (other : (s.chan ch).state ≠ .paused) :
    exec (.resume ch) s = .next (s.respond .ok 0) := by
  rw [exec, execResume, withChannel_of_lt hch, if_neg other]

end Control

/-- A channel forced to IDLE, field by field: only the level of the line depends on what it was (R117). -/
theorem forceIdle_eq (c : Chan) :
    forceIdle c =
      { c with intEn := false, fifo := [], ptq := [], state := .idle, curActive := false,
               line := if c.bound = true ∧ c.cfg.transportKind = .pulse then c.cfg.idleLevel else c.line } := by
  unfold forceIdle
  split <;> rfl

/-- Settles O29: STOP has one answer, the channel of `forceIdle_eq`. -/
theorem stopForcesIdle : Obligations.StopForcesIdle := by
  intro s ch hch c
  obtain ⟨now, only, memory⟩ := setChan_respond_frame hch (forceIdle c) .ok 0 (by rw [forceIdle_eq])
  exact ⟨_, execStop_eq hch, rfl, now.trans (forceIdle_eq c), only, memory⟩

/-- Settles O30: one equation for a channel that pauses and one for every other. -/
theorem pauseDisablesTheInterrupt : Obligations.PauseDisablesTheInterrupt := by
  intro s ch hch c pauses
  exact ⟨fun ⟨byte, busy⟩ => ⟨_, execPause_of_pauses hch byte busy, rfl, setChan_respond_frame hch _ .ok 0 rfl⟩,
    execPause_of_not_pauses hch⟩

/-- Settles O31: one equation for a paused channel and one for every other. -/
theorem resumeEnablesTheInterrupt : Obligations.ResumeEnablesTheInterrupt := by
  intro s ch hch c
  exact ⟨fun paused => ⟨_, execResume_of_paused hch paused, rfl, setChan_respond_frame hch _ .ok 0 rfl⟩,
    execResume_of_not_paused hch⟩

/-! ## SET_WIDTH and SET_MIN_FRAME (R120, R121) -/

section Idle
variable {s : State} {ch : ChanId} (hch : ch.toNat < s.nCh) (idle : (s.chan ch).state = .idle)
include hch idle

theorem execSetWidth_of_out_of_range {w : Word} (outside : ¬(1 ≤ w.toNat ∧ w.toNat ≤ 8)) :
    exec (.setWidth ch w) s = .next (s.respond .rejectRange 0) := by
  rw [exec, execSetWidth, withChannel_of_lt hch, if_neg (not_not.2 idle), if_neg ((between_iff 1 8 w).not.2 outside)]

theorem execSetWidth_of_in_range {w : Word} (inside : 1 ≤ w.toNat ∧ w.toNat ≤ 8) :
    exec (.setWidth ch w) s = .next ((s.setChan ch { s.chan ch with width := w.setWidth 4 }).respond .ok 0) := by
  rw [exec, execSetWidth, withChannel_of_lt hch, if_neg (not_not.2 idle), if_pos ((between_iff 1 8 w).2 inside)]

theorem execSetMinFrame_of_no_gap {us : Word}
    (plain : ¬((s.chan ch).cfg.transportKind = .pulse ∧ (s.chan ch).built = true)) :
    exec (.setMinFrame ch us) s = .next ((s.setChan ch { s.chan ch with minFrameUs := us }).respond .ok 0) := by
  rw [exec, execSetMinFrame, withChannel_of_lt hch, if_neg (not_not.2 idle), if_neg plain]

section Gap
variable {us : Word} {g : Nat} (gap : gapFor s.params (s.chan ch).cfg us = g)
  (regenerates : (s.chan ch).cfg.transportKind = .pulse ∧ (s.chan ch).built = true)
include gap regenerates

theorem execSetMinFrame_of_gap_unfit (outside : ¬(1 ≤ g ∧ g ≤ 32767)) :
    exec (.setMinFrame ch us) s = .next (s.respond .rejectRange 0) := by
  rw [exec, execSetMinFrame, withChannel_of_lt hch, if_neg (not_not.2 idle), if_pos regenerates, gap,
    if_neg ((gapFits_iff g).not.2 outside)]

theorem execSetMinFrame_of_gap_fit (fits : 1 ≤ g ∧ g ≤ 32767) :
    exec (.setMinFrame ch us) s =
      .next ((s.setChan ch { s.chan ch with
        minFrameUs := us
        table := { (s.chan ch).table with interframeGap := gapEntry (s.chan ch).cfg g } }).respond .ok 0) := by
  rw [exec, execSetMinFrame, withChannel_of_lt hch, if_neg (not_not.2 idle), if_pos regenerates, gap,
    if_pos ((gapFits_iff g).2 fits)]
  rfl

end Gap

end Idle

/-- Settles O33: the busy check, the range check and the write of WIDTH, in this order. -/
theorem setWidthTakesOneToEight : Obligations.SetWidthTakesOneToEight := by
  intro s ch w hch c
  refine ⟨fun busy => ⟨_, execSetWidth_of_busy hch busy w, rejectBusy_frame hch⟩,
    fun idle outside => execSetWidth_of_out_of_range hch idle outside, fun idle low high => ?_⟩
  have narrowed : w.setWidth 4 = BitVec.ofNat 4 w.toNat := rfl
  rw [← narrowed]
  exact ⟨_, execSetWidth_of_in_range hch idle ⟨low, high⟩, rfl, setChan_respond_frame hch _ .ok 0 rfl⟩

/-- Settles O32: the gap that SET_MIN_FRAME regenerates is that of the `r` reset ticks, and it fits or it does not. -/
theorem setMinFrameSetsThePacerAndTheGap : Obligations.SetMinFrameSetsThePacerAndTheGap := by
  intro s ch us hch c f bias resets g regenerates ends
  have gap {r : Nat} (reset : resets r) : gapFor s.params f us = g r := by
    have ticks : constantTicks f 4 = r := by
      have count : tickCount f 4 = r := by
        rw [reset, tickCount, nsBias_eq_by_bits]
        rfl
      rw [constantTicks_eq_tickCount, count, Int.toNat_natCast]
    rw [gapFor, ticks]
  exact ⟨fun busy => ⟨_, execSetMinFrame_of_busy hch busy us, rejectBusy_frame hch⟩,
    fun r reset idle regen unfit => execSetMinFrame_of_gap_unfit hch idle (gap reset) regen unfit,
    fun r reset idle regen low high => ⟨_, execSetMinFrame_of_gap_fit hch idle (gap reset) regen ⟨low, high⟩, rfl,
      setChan_respond_frame hch _ .ok 0 rfl⟩,
    fun idle plain => ⟨_, execSetMinFrame_of_no_gap hch idle plain, rfl, setChan_respond_frame hch _ .ok 0 rfl⟩⟩

/-! ## BEGIN (R115) -/

/-- BEGIN finds its peripheral or its pin claimed exactly where another bound channel holds one of them (R42, R115). -/
theorem claimedByOther_iff {s : State} (few : s.nCh ≤ 16) {ch : ChanId} {c : Chan} :
    claimedByOther s ch c = true ↔
      ∃ o : ChanId, o ≠ ch ∧ o.toNat < s.nCh ∧ (s.chan o).bound = true ∧
        ((s.chan o).cfg.periphId = c.cfg.periphId ∨ (s.chan o).cfg.pin = c.cfg.pin) := by
  constructor
  · intro claimed
    obtain ⟨n, inRange, holds⟩ := List.any_eq_true.1 claimed
    have lt : n < s.chans.length := List.mem_range.1 inRange
    have small : n < 2 ^ 4 := Nat.lt_of_lt_of_le lt few
    have number : (BitVec.ofNat 4 n).toNat = n := by rw [BitVec.toNat_ofNat, Nat.mod_eq_of_lt small]
    have found : s.chan (BitVec.ofNat 4 n) = s.chans[n] := by simp [State.chan, number, lt]
    simp only [List.getElem?_eq_getElem lt, Bool.and_eq_true, bne_iff_ne, Bool.or_eq_true, beq_iff_eq] at holds
    obtain ⟨ne, bound, shares⟩ := holds
    refine ⟨BitVec.ofNat 4 n, fun e => ne ?_, number.trans_lt lt, ?_, ?_⟩
    · rw [← e, number]
    · rw [found]; exact bound
    · rw [found]; exact shares
  · rintro ⟨o, ne, ho, bound, shares⟩
    by_contra free
    obtain ⟨periph, pin⟩ := claimedByOther_false (Bool.eq_false_of_not_eq_true free) ho ne bound
    exact shares.elim periph pin

/-- The channel that BEGIN's checks run on: unbound first, if it was bound (R115, log 12). -/
def released (c : Chan) : Chan := if c.bound then unbind c else c

@[simp] theorem released_cfg (c : Chan) : (released c).cfg = c.cfg := by unfold released; split <;> rfl
@[simp] theorem released_ibuf (c : Chan) : (released c).ibuf = c.ibuf := by unfold released; split <;> rfl

section Begin
variable {s : State} {ch : ChanId} {c : Chan}

theorem bindChannel_of_claimed (claimed : claimedByOther s ch c = true) : bindChannel s ch c = .error 1 := by
  rw [bindChannel, if_pos claimed]

variable (free : ¬claimedByOther s ch c = true)
include free

theorem bindChannel_of_wrong_kind (wrong : s.params.periphKind[c.cfg.periphId.toNat]? ≠ some c.cfg.transportKind) :
    bindChannel s ch c = .error 2 := by
  rw [bindChannel, if_neg free, if_pos wrong]

variable (kind : s.params.periphKind[c.cfg.periphId.toNat]? = some c.cfg.transportKind)
include kind

theorem bindChannel_of_pulse (pulse : c.cfg.transportKind = .pulse) :
    bindChannel s ch c =
      .ok { c with bound := true, line := c.cfg.idleLevel, ptTrace := c.ptTrace ++ [.bind c.cfg.idleLevel] } := by
  rw [bindChannel, if_neg free, if_neg (not_not.2 kind), pulse]
  rfl

variable (byte : c.cfg.transportKind = .byte)
include byte

theorem bindChannel_of_bad_baud
    (bad : ¬(c.cfg.lineBits ≠ 0 ∧ c.cfg.dataRate ≠ 0 ∧ baudProduct c.cfg ≤ s.params.baudMax)) :
    bindChannel s ch c = .error 3 := by
  rw [bindChannel, if_neg free, if_neg (not_not.2 kind), byte]
  dsimp only
  split
  · rfl
  · rename_i nonzero
    obtain ⟨line, rate⟩ := not_or.1 nonzero
    rw [if_pos (Nat.lt_of_not_le fun le => bad ⟨line, rate, le⟩)]

theorem bindChannel_of_byte (line : c.cfg.lineBits ≠ 0) (rate : c.cfg.dataRate ≠ 0)
    (fits : baudProduct c.cfg ≤ s.params.baudMax) :
    bindChannel s ch c =
      .ok { c with
        bound := true
        baud := BitVec.ofNat 32 (baudProduct c.cfg)
        uartTrace := c.uartTrace ++
          [.bind (BitVec.ofNat 32 (baudProduct c.cfg)) c.cfg.wordLen c.cfg.stopBits c.cfg.invert] } := by
  rw [bindChannel, if_neg free, if_neg (not_not.2 kind), byte]
  dsimp only
  rw [if_neg (not_or.2 ⟨line, rate⟩), if_neg (Nat.not_lt.2 fits)]
  rfl

end Begin

section BeginAnswer
variable {s : State} {ch : ChanId} (hch : ch.toNat < s.nCh) (idle : (s.chan ch).state = .idle)
include hch idle

theorem execBegin_of_error {v : Word} (failed : bindChannel s ch (released (s.chan ch)) = .error v) :
    exec (.beginCh ch) s = .next ((s.setChan ch (released (s.chan ch))).respond .hwUnavailable v) := by
  unfold released at failed ⊢
  rw [exec, execBegin, withChannel_of_lt hch, if_neg (not_not.2 idle)]
  dsimp only
  rw [failed]

theorem execBegin_of_ok {d : Chan} (bound : bindChannel s ch (released (s.chan ch)) = .ok d) :
    exec (.beginCh ch) s = .next ((s.setChan ch d).respond .ok 0) := by
  unfold released at bound
  rw [exec, execBegin, withChannel_of_lt hch, if_neg (not_not.2 idle)]
  dsimp only
  rw [bound]

end BeginAnswer

/-- Settles O23: the busy check, then one equation of `bindChannel` for each outcome on the channel released first. -/
theorem beginClaimsThePeripheral : Obligations.BeginClaimsThePeripheral := by
  intro s ch hch wf few c f u claimed kindOk baud baudOk ends
  have cfg : (released c).cfg = f := released_cfg c
  have cfg' : u.cfg = f := cfg
  have claimed_iff : claimedByOther s ch (released c) = true ↔ claimed := by
    rw [claimedByOther_iff few, cfg]
  have product : baudProduct (released c).cfg = baud := by rw [cfg]; rfl
  have fails {v : Word} (idle : c.state = .idle) (failed : bindChannel s ch (released c) = .error v) :
      ends ⟨.hwUnavailable, v⟩ u :=
    ⟨_, execBegin_of_error hch idle failed, rfl, setChan_respond_frame hch _ _ _ (released_ibuf c)⟩
  have succeeds {d : Chan} (idle : c.state = .idle) (bound : bindChannel s ch (released c) = .ok d)
      (buffer : d.ibuf = c.ibuf) : ends ⟨.ok, 0⟩ d :=
    ⟨_, execBegin_of_ok hch idle bound, rfl, setChan_respond_frame hch _ _ _ buffer⟩
  refine ⟨fun busy => ⟨_, execBegin_of_busy hch busy, rejectBusy_frame hch⟩,
    fun idle taken => fails idle (bindChannel_of_claimed (claimed_iff.2 taken)),
    fun idle free wrong => fails idle (bindChannel_of_wrong_kind (claimed_iff.not.2 free) ?_),
    fun idle free kind byte bad => fails idle (bindChannel_of_bad_baud (claimed_iff.not.2 free) ?_ ?_ ?_),
    fun idle free kind byte good => ⟨?_, ?_⟩,
    fun idle free kind pulse => ?_⟩
  · rwa [cfg]
  · rwa [cfg]
  · rwa [cfg]
  · rwa [product, cfg]
  · obtain ⟨-, -, -, -, -, -, baudMax⟩ := wf
    rw [BitVec.toNat_ofNat]
    have := good.2.2
    omega
  · obtain ⟨line, rate, fits⟩ := good
    have bound := bindChannel_of_byte (claimed_iff.not.2 free) (by rwa [cfg]) (by rwa [cfg]) (by rwa [cfg])
      (by rwa [cfg]) (by rwa [product])
    rw [product, cfg] at bound
    rw [cfg']
    exact succeeds idle bound (released_ibuf c)
  · have bound := bindChannel_of_pulse (claimed_iff.not.2 free) (by rwa [cfg]) (by rwa [cfg])
    rw [cfg] at bound
    rw [cfg']
    exact succeeds idle bound (released_ibuf c)

/-! ## The translation of a frame in closed form (R135, R136) -/

/-- The items of one pair of the frame image: its scaled byte's bits by the table and the width (R132 to R134). -/
def pairItems (p : Params) (c : Chan) (vm : Byte × Multiplier) : List Word :=
  byteItems c.table c.width.toNat (scale p.scale vm.1 vm.2)

theorem frameItems_eq (p : Params) (ch : ChanId) (c : Chan) :
    frameItems p ch c =
      markerItems c.table.startBit ++ (frameImage ch c).flatMap (pairItems p c) ++
      markerItems c.table.stopBit ++ markerItems c.table.interframeGap := by
  rw [frameItems, scaledFrame, List.flatMap_map]
  rfl

theorem byteItems_length (t : SymbolTable) (w : Nat) (x : Byte) : (byteItems t w x).length = w := by
  rw [byteItems, bitsOf, List.length_map, List.length_map, List.length_range]

/-- The formula of R136 counts the items of a frame. -/
theorem frameItems_length (p : Params) (ch : ChanId) (c : Chan) : (frameItems p ch c).length = pulseItemCount c := by
  have values : ((frameImage ch c).flatMap (pairItems p c)).length = frameLen c.cfg * c.width.toNat := by
    simp only [List.length_flatMap, pairItems, byteItems_length, List.map_const', List.sum_replicate, smul_eq_mul,
      frameImage_length]
  simp only [frameItems_eq, List.length_append, values, markerItems_length, pulseItemCount]

/-- The loop of R135 over the `n` positions that are left appends the items of each and ends at the frame's end. -/
theorem translateLoop_eq {p : Params} {ch : ChanId} {n : Nat} {c : Chan} (fits : c.cfg.bufLen.toNat ≤ p.bufMax)
    (left : c.curOffset.toNat + n = frameLen c.cfg) (acc : List Word) :
    translateLoop p ch n c acc =
      .ok (acc ++ ((frameImage ch c).drop c.curOffset.toNat).flatMap (pairItems p c),
        { c with curOffset := BitVec.ofNat 32 (frameLen c.cfg) }) := by
  induction n generalizing c acc with
  | zero =>
    have atEnd : (frameImage ch c).drop c.curOffset.toNat = [] :=
      List.drop_of_length_le (by rw [frameImage_length]; omega)
    rw [translateLoop, atEnd, List.flatMap_nil, List.append_nil, ← left, Nat.add_zero, ← word_eq_ofNat]
  | succ n ih =>
    have more : pumpMore c = true := (pumpMore_iff c).2 (by omega)
    have inside : c.curOffset.toNat < (frameImage ch c).length := by rw [frameImage_length]; omega
    have next := pumpNext_of_getElem fits (List.getElem?_eq_getElem inside)
    obtain ⟨-, advanced⟩ := pumpNext_of_more more next
    have rest := ih (c := { c with curOffset := c.curOffset + 1 }) fits (by rw [advanced]; dsimp only; omega)
      (acc ++ pairItems p c (frameImage ch c)[c.curOffset.toNat])
    have image : frameImage ch { c with curOffset := c.curOffset + 1 } = frameImage ch c := rfl
    dsimp only at advanced
    rw [translateLoop, if_pos more, next]
    refine rest.trans ?_
    rw [image, advanced, List.drop_eq_getElem_cons inside, List.flatMap_cons, List.append_assoc]
    rfl

/-- The sequence of a frame, from its start, is `frameItems`; the cursor ends at the frame's end (R135). -/
theorem pulseSequence_eq {p : Params} {ch : ChanId} {c : Chan} (fits : c.cfg.bufLen.toNat ≤ p.bufMax)
    (start : c.curOffset = 0) :
    pulseSequence p ch c = .ok (frameItems p ch c, { c with curOffset := BitVec.ofNat 32 (frameLen c.cfg) }) := by
  have loop := translateLoop_eq (p := p) (ch := ch) (n := frameLen c.cfg) fits (by simp [start])
    (markerItems c.table.startBit)
  rw [pulseSequence, loop, frameItems_eq, start]
  rfl

/-! ## RENDER (R116): an equation for each outcome -/

theorem canStart_iff (c : Chan) (now : Word) :
    canStart c now = true ↔ c.started = false ∨ c.minFrameUs.toNat ≤ (now - c.lastStartUs).toNat := by
  simp [canStart]

/-- A frame's start on a channel with the cursor put at `k`: the cursor, the pacer and the count of frames (R116). -/
theorem countStart_at (now : Word) (c : Chan) (k : Word) :
    countStart now { pumpStart c with curOffset := k } =
      { c with curOffset := k, curBits := 0, lastStartUs := now, started := true,
               framesStarted := c.framesStarted + 1 } := rfl

/-- What an accepted RENDER leaves of a byte-serial channel (R116). -/
theorem renderByte_eq (s : State) (ch : ChanId) (c : Chan) :
    renderByte s ch c =
      .next ((s.setChan ch { c with
        curOffset := 0, curBits := 0, lastStartUs := s.timeUs, started := true,
        framesStarted := c.framesStarted + 1, state := .armed, curActive := true, intEn := true }).respond .ok 1) := rfl

theorem ready_iff (c : Chan) : ¬(c.bound = false ∨ c.built = false) ↔ c.bound = true ∧ c.built = true := by simp

section Render
variable {s : State} {ch : ChanId} (hch : ch.toNat < s.nCh)
include hch

theorem execRender_of_not_ready (notReady : ¬((s.chan ch).bound = true ∧ (s.chan ch).built = true)) :
    exec (.render ch) s = .next (s.respond .notReady 0) := by
  rw [exec, execRender, withChannel_of_lt hch,
    if_pos (not_not.1 ((ready_iff _).not.2 notReady))]

variable (ready : (s.chan ch).bound = true ∧ (s.chan ch).built = true)
include ready

theorem execRender_of_busy (busy : (s.chan ch).state ≠ .idle) : exec (.render ch) s = .next (s.respond .ok 0) := by
  rw [exec, execRender, withChannel_of_lt hch, if_neg ((ready_iff _).2 ready), if_pos busy]

variable (idle : (s.chan ch).state = .idle)
include idle

theorem execRender_of_denied (denied : ¬canStart (s.chan ch) s.timeUs = true) :
    exec (.render ch) s = .next (s.respond .ok 0) := by
  rw [exec, execRender, withChannel_of_lt hch, if_neg ((ready_iff _).2 ready), if_neg (not_not.2 idle),
    if_pos (Bool.eq_false_of_not_eq_true denied)]

variable (permitted : canStart (s.chan ch) s.timeUs = true)
include permitted

theorem execRender_of_byte (byte : (s.chan ch).cfg.transportKind = .byte) :
    exec (.render ch) s =
      .next ((s.setChan ch { s.chan ch with
        curOffset := 0, curBits := 0, lastStartUs := s.timeUs, started := true,
        framesStarted := (s.chan ch).framesStarted + 1, state := .armed, curActive := true,
        intEn := true }).respond .ok 1) := by
  rw [exec, execRender, withChannel_of_lt hch, if_neg ((ready_iff _).2 ready), if_neg (not_not.2 idle),
    if_neg (ne_false_of_eq_true permitted), byte]
  exact renderByte_eq s ch _

variable (pulse : (s.chan ch).cfg.transportKind = .pulse)
include pulse

theorem execRender_of_pulse : exec (.render ch) s = renderPulse s ch (s.chan ch) := by
  rw [exec, execRender, withChannel_of_lt hch, if_neg ((ready_iff _).2 ready), if_neg (not_not.2 idle),
    if_neg (ne_false_of_eq_true permitted), pulse]

theorem execRender_of_oversize (tooLong : s.params.ptDepth < pulseItemCount (s.chan ch)) :
    exec (.render ch) s = .next (s.raise (.oversize ch) .oversize) := by
  rw [execRender_of_pulse hch ready idle permitted pulse, renderPulse, if_pos tooLong]

/-- What an accepted RENDER leaves of a pulse-train channel: a frame of no item is complete at once (R116). -/
theorem execRender_of_fits (short : pulseItemCount (s.chan ch) ≤ s.params.ptDepth)
    (fits : (s.chan ch).cfg.bufLen.toNat ≤ s.params.bufMax) {d : Chan}
    (start : d = countStart s.timeUs
      { pumpStart (s.chan ch) with curOffset := BitVec.ofNat 32 (frameLen (s.chan ch).cfg) }) :
    exec (.render ch) s =
      .next ((s.setChan ch
        (if frameItems s.params ch (s.chan ch) = [] then { d with framesDone := d.framesDone + 1 }
         else { d with ptq := frameItems s.params ch (s.chan ch), state := .armed, curActive := true })).respond
        .ok 1) := by
  have sequence := pulseSequence_eq (p := s.params) (ch := ch) (c := pumpStart (s.chan ch)) fits rfl
  have items : frameItems s.params ch (pumpStart (s.chan ch)) = frameItems s.params ch (s.chan ch) := rfl
  have empty : pulseItemCount (s.chan ch) = 0 ↔ frameItems s.params ch (s.chan ch) = [] := by
    rw [← frameItems_length s.params ch, List.length_eq_zero_iff]
  rw [execRender_of_pulse hch ready idle permitted pulse, renderPulse, if_neg (Nat.not_lt.2 short), sequence, items]
  subst start
  simp only [empty]
  split <;> rfl

end Render

/-- Settles O25: the equation of RENDER on a byte-serial channel that is ready, idle and permitted. -/
theorem renderArmsTheByteChannel : Obligations.RenderArmsTheByteChannel := by
  intro s ch hch c bound built idle permitted byte
  exact ⟨_, execRender_of_byte hch ⟨bound, built⟩ idle ((canStart_iff c _).2 permitted) byte, rfl,
    setChan_respond_frame hch _ .ok 1 rfl⟩

/-- Settles O26: one equation of RENDER for each refusal, the size by `frameItems_length`. -/
theorem renderRefusesInOrder : Obligations.RenderRefusesInOrder := by
  intro s ch hch c ready permitted
  refine ⟨fun notReady => execRender_of_not_ready hch notReady, fun isReady busy => execRender_of_busy hch isReady busy,
    fun isReady idle denied => execRender_of_denied hch isReady idle ((canStart_iff c _).not.2 denied),
    fun isReady idle starts pulse tooLong => ?_⟩
  rw [frameItems_length] at tooLong
  exact ⟨_, execRender_of_oversize hch isReady idle ((canStart_iff c _).2 starts) pulse tooLong, rfl,
    setChan_respond_frame hch { c with err := c.err ||| errOversize } .oversize 0 rfl⟩

/-- Settles O24: the markers by the number of their words, and the equation of RENDER for a frame that fits. -/
theorem renderQueuesThePulseFrame : Obligations.RenderQueuesThePulseFrame := by
  intro s ch hch c items marker started
  refine ⟨?_, fun bound built idle permitted pulse fits short => ?_⟩
  · have markers (w : Word) : markerItems w = marker w := by simp only [markerItems, isNull_iff, marker]
    have bits : byteItems c.table c.width.toNat = fun x =>
        (List.range c.width.toNat).map fun i => if x.getMsbD i then c.table.oneBit else c.table.zeroBit := by
      funext x
      rw [byteItems, bitsOf, List.map_map]
      rfl
    simp only [items, frameItems, markers, bits]
  · rw [frameItems_length] at short
    have accepted := execRender_of_fits hch ⟨bound, built⟩ idle ((canStart_iff c _).2 permitted) pulse short fits rfl
    have start : countStart s.timeUs { pumpStart c with curOffset := BitVec.ofNat 32 (frameLen c.cfg) } = started := by
      rw [countStart_at, ← frameImage_length ch c]
    rw [start] at accepted
    refine ⟨_, accepted, rfl, setChan_respond_frame hch _ .ok 1 ?_⟩
    split <;> rfl

/-! ## What RENDER can answer (R116, R123) -/

/-- The next states of RENDER on channel `ch`: the frame is dropped, or refused for its size, or an empty pulse frame is
complete at once, or the frame is started. -/
inductive RenderAnswer (s : State) (ch : ChanId) : State → Prop where
  | dropped (st : Status) (notOversize : st ≠ .oversize) : RenderAnswer s ch (s.respond st 0)
  | oversize (pulse : (s.chan ch).cfg.transportKind = .pulse) : RenderAnswer s ch (s.raise (.oversize ch) .oversize)
  | completed (d : Chan) (same : d.state = (s.chan ch).state) : RenderAnswer s ch ((s.setChan ch d).respond .ok 1)
  | started (d : Chan) (idle : (s.chan ch).state = .idle) (permitted : canStart (s.chan ch) s.timeUs = true)
      (armed : d.state = .armed) (interrupt : (s.chan ch).cfg.transportKind = .byte → d.intEn = true)
      (items : (s.chan ch).cfg.transportKind = .pulse → d.ptq ≠ []) : RenderAnswer s ch ((s.setChan ch d).respond .ok 1)

theorem renderPulse_answer {s t : State} {ch : ChanId} (idle : (s.chan ch).state = .idle)
    (permitted : canStart (s.chan ch) s.timeUs = true) (pulse : (s.chan ch).cfg.transportKind = .pulse)
    (h : renderPulse s ch (s.chan ch) = .next t) : RenderAnswer s ch t := by
  unfold renderPulse at h
  split at h
  · obtain rfl := outcome_next_inj h
    exact .oversize pulse
  split at h
  · cases h
  · rename_i seq d sequence
    obtain ⟨length, same, -⟩ := pulseSequence_ok rfl sequence
    have count : seq.length = pulseItemCount (s.chan ch) := length
    dsimp only at h
    split at h
    · obtain rfl := outcome_next_inj h
      exact .completed _ (by rw [same]; rfl)
    · rename_i some_items
      obtain rfl := outcome_next_inj h
      refine .started _ idle permitted rfl (fun byte => absurd (pulse.symm.trans byte) (by decide)) fun _ empty => ?_
      have none : seq = [] := empty
      rw [none] at count
      exact some_items count.symm

theorem execRender_answer {s t : State} {ch : ChanId} (hch : ch.toNat < s.nCh) (h : exec (.render ch) s = .next t) :
    RenderAnswer s ch t := by
  by_cases ready : (s.chan ch).bound = true ∧ (s.chan ch).built = true
  case neg =>
    rw [execRender_of_not_ready hch ready] at h
    obtain rfl := outcome_next_inj h
    exact .dropped _ (by decide)
  by_cases idle : (s.chan ch).state = .idle
  case neg =>
    rw [execRender_of_busy hch ready idle] at h
    obtain rfl := outcome_next_inj h
    exact .dropped _ (by decide)
  by_cases permitted : canStart (s.chan ch) s.timeUs = true
  case neg =>
    rw [execRender_of_denied hch ready idle permitted] at h
    obtain rfl := outcome_next_inj h
    exact .dropped _ (by decide)
  cases kind : (s.chan ch).cfg.transportKind with
  | pulse =>
    rw [execRender_of_pulse hch ready idle permitted kind] at h
    exact renderPulse_answer idle permitted kind h
  | byte =>
    rw [execRender_of_byte hch ready idle permitted kind] at h
    obtain rfl := outcome_next_inj h
    exact .started _ idle permitted rfl (fun _ => rfl) fun pulse => absurd (kind.symm.trans pulse) (by decide)

/-- Settles O27: of the answers of `execRender_answer`, those of value 0 are a dropped and an oversize frame. -/
theorem renderWithValueZeroLeavesNoTrace : Obligations.RenderWithValueZeroLeavesNoTrace := by
  intro s t ch r hch h response zero
  cases execRender_answer hch h with
  | dropped st notOversize =>
    obtain rfl : ⟨st, 0⟩ = r := Option.some.inj response
    exact ⟨fun _ => rfl, fun oversize => absurd oversize notOversize⟩
  | oversize pulse =>
    obtain rfl : ⟨.oversize, 0⟩ = r := Option.some.inj response
    exact ⟨fun other => absurd rfl other, fun _ => ⟨pulse,
      setChan_respond_frame hch { s.chan ch with err := (s.chan ch).err ||| errOversize } .oversize 0 rfl⟩⟩
  | completed =>
    obtain rfl : ⟨.ok, 1⟩ = r := Option.some.inj response
    exact absurd zero (by decide)
  | started =>
    obtain rfl : ⟨.ok, 1⟩ = r := Option.some.inj response
    exact absurd zero (by decide)

/-! ## A loaded queue drains (R126, R138, R140, R141) -/

theorem setChan_setChan (s : State) (ch : ChanId) (c d : Chan) : (s.setChan ch c).setChan ch d = s.setChan ch d := by
  simp only [State.setChan, List.set_set]

theorem onlyChannel_setChan (s : State) (ch : ChanId) (d : Chan) : OnlyChannel ch s (s.setChan ch d) where
  params := rfl
  nCh := nCh_setChan s ch d
  others := fun _ ne => chan_setChan_other s ne d
  timeUs := rfl
  gerr := rfl
  context := rfl
  hostTrace := rfl
  commands := rfl
  onward := rfl
  schedule := rfl
  turn := rfl
  drawn := rfl

/-- An item's events: those of its two halves, a half of no ticks giving none (R141). -/
theorem emitItem_ptTrace (c : Chan) (d : Word) : (emitItem c d).ptTrace = c.ptTrace ++ itemEvents d := by
  unfold emitItem emitHalf itemEvents
  split <;> split <;> simp

/-- The channel after the items `items` were emitted and the frame ended (R140). -/
def drained (c : Chan) (items : List Word) : Chan :=
  finishPulseFrame { c with ptq := [], ptTrace := c.ptTrace ++ items.flatMap itemEvents }

/-- The step on the last item drains the queue (R140). -/
theorem ptEmit_last {c : Chan} {d : Word} (loaded : c.ptq = [d]) : ptEmit c = drained c [d] := by
  rw [ptEmit_cons loaded]
  dsimp only
  rw [if_pos rfl, emitItem_frame, emitItem_ptTrace, drained, List.flatMap_singleton]
  split <;> rfl

/-- Draining after a step on another item is draining with that item first (R140). -/
theorem drained_ptEmit {c : Chan} {d : Word} {rest : List Word} (loaded : c.ptq = d :: rest) (more : rest ≠ []) :
    drained (ptEmit c) rest = drained c (d :: rest) := by
  rw [ptEmit_cons loaded]
  dsimp only
  rw [if_neg more, emitItem_frame, emitItem_ptTrace, drained, drained, List.flatMap_cons]
  split <;> simp only [List.append_assoc, finishPulseFrame]

theorem ptEmit_ptq {c : Chan} {d : Word} {rest : List Word} (loaded : c.ptq = d :: rest) : (ptEmit c).ptq = rest := by
  rw [ptEmit_frame, loaded]
  rfl

/-- The state after a step of `PT(ch)` that leaves the schedule `l`. -/
def State.afterPt (s : State) (ch : ChanId) (l : List Agent) : State :=
  { s with schedule := l }.setChan ch (ptEmit (s.chan ch))

/-- A step of `PT(ch)` that the schedule names, on a queue that holds an item (R138). -/
theorem step_of_scheduled_pt {s : State} {ch : ChanId} {l : List Agent} (hch : ch.toNat < s.nCh)
    (loaded : (s.chan ch).ptq ≠ []) (scheduled : s.schedule = .pt ch :: l) :
    step s = .next (s.afterPt ch l) := by
  have here : enabled s (.pt ch) = true := by simp [enabled, hch, loaded]
  rw [step_eq_agentStep, nextMove_of_schedule scheduled here]
  rfl

/-- As many steps of `PT(ch)` as the queue has items drain it: by induction on the queue. -/
theorem stepN_drains {s : State} {ch : ChanId} {items : List Word} {rest : List Agent} (hch : ch.toNat < s.nCh)
    (some_item : items ≠ []) (loaded : (s.chan ch).ptq = items)
    (scheduled : s.schedule = List.replicate items.length (.pt ch) ++ rest) :
    stepN items.length s = .next ({ s with schedule := rest }.setChan ch (drained (s.chan ch) items)) := by
  induction items generalizing s with
  | nil => exact absurd rfl some_item
  | cons d tail ih =>
    have first := step_of_scheduled_pt hch (loaded ▸ some_item) scheduled
    rw [List.length_cons, stepN, first]
    dsimp only
    by_cases last : tail = []
    · subst last
      rw [← ptEmit_last loaded]
      rfl
    · have now : (s.afterPt ch (List.replicate tail.length (.pt ch) ++ rest)).chan ch = ptEmit (s.chan ch) :=
        chan_setChan_same hch _
      have later := ih (s := s.afterPt ch (List.replicate tail.length (.pt ch) ++ rest))
        (hch.trans_eq (nCh_setChan ..).symm) last (by rw [now, ptEmit_ptq loaded]) rfl
      rw [now, drained_ptEmit loaded last] at later
      exact later.trans (congrArg _ (setChan_setChan { s with schedule := rest } ch _ _))

/-- Settles O48: the drained channel of `stepN_drains`, field by field. -/
theorem loadedQueueDrainsInOrder : Obligations.LoadedQueueDrainsInOrder := by
  intro s ch items rest hch c some_item loaded scheduled
  exact ⟨_, stepN_drains hch some_item loaded scheduled, chan_setChan_same hch _, onlyChannel_setChan _ ch _,
    cell_setChan_of_ibuf { s with schedule := rest } ch rfl, rfl⟩

/-! ## STATE under the commands of the host (R122) -/

/-- What command `i` of the host, at time `now`, may do to STATE of channel `o`, which it takes from `c` to `d`: keep
it, or one of the rows of R122 that name a command. -/
inductive CommandRow (now : Word) (o : ChanId) (c d : Chan) : Instr → Prop where
  | kept {i : Instr} (same : d.state = c.state) : CommandRow now o c d i
  | render (idle : c.state = .idle) (permitted : canStart c now = true) (armed : d.state = .armed)
      (interrupt : c.cfg.transportKind = .byte → d.intEn = true) (items : c.cfg.transportKind = .pulse → d.ptq ≠ []) :
      CommandRow now o c d (.render o)
  | pause (byte : c.cfg.transportKind = .byte) (busy : c.state = .armed ∨ c.state = .streaming)
      (paused : d.state = .paused) (off : d.intEn = false) : CommandRow now o c d (.pause o)
  | resume (paused : c.state = .paused) (streaming : d.state = .streaming) (on : d.intEn = true) :
      CommandRow now o c d (.resume o)
  | stop (idle : d.state = .idle) : CommandRow now o c d (.stop o)

/-- An answer to command `i` in state `s` moves STATE of every channel by a row of `CommandRow`, where it is a next
state. -/
def MovesByRow (i : Instr) (s : State) : Result → Prop
  | .next t => ∀ o : ChanId, CommandRow s.timeUs o (s.chan o) (t.chan o) i
  | .fault _ => True
  | .refused _ => True

section Rows
variable {i : Instr} {s : State}

theorem movesByRow_of_chans {t : State} (same : t.chans = s.chans) : MovesByRow i s (.next t) :=
  fun o => .kept (by simp only [State.chan, same])

/-- A command that only answers. -/
theorem movesByRow_respond {st : Status} {v : Word} : MovesByRow i s (.next (s.respond st v)) :=
  movesByRow_of_chans rfl

/-- A command that replaces its channel by a row, and answers. -/
theorem movesByRow_answer {ch : ChanId} {d : Chan} {st : Status} {v : Word} (hch : ch.toNat < s.nCh)
    (row : CommandRow s.timeUs ch (s.chan ch) d i) : MovesByRow i s (.next ((s.setChan ch d).respond st v)) := by
  intro o
  rw [chan_respond]
  by_cases ho : o = ch
  · subst ho
    rwa [chan_setChan_same hch]
  · rw [chan_setChan_other s ho]
    exact .kept rfl

/-- A command that replaces its channel by one with the same STATE, and answers. -/
theorem movesByRow_answer_kept {ch : ChanId} {d : Chan} {st : Status} {v : Word} (hch : ch.toNat < s.nCh)
    (same : d.state = (s.chan ch).state) : MovesByRow i s (.next ((s.setChan ch d).respond st v)) :=
  movesByRow_answer hch (.kept same)

theorem movesByRow_withChannel {ch : ChanId} {k : Chan → Result}
    (h : ch.toNat < s.nCh → MovesByRow i s (k (s.chan ch))) : MovesByRow i s (withChannel ch s k) := by
  rcases withChannel_cases (rfl : withChannel ch s k = _) with ⟨-, e⟩ | ⟨hch, e⟩ <;> rw [e]
  · exact movesByRow_of_chans rfl
  · exact h hch

/-- A command that every frame state but IDLE refuses (R97). -/
theorem movesByRow_unlessBusy {ch : ChanId} {r : Result} (hch : ch.toNat < s.nCh) (h : MovesByRow i s r) :
    MovesByRow i s (if (s.chan ch).state ≠ .idle then .next (s.rejectBusy ch) else r) := by
  split
  · exact movesByRow_answer_kept (st := .rejectBusy) (v := 0) hch rfl
  · exact h

/-- The commands of the interrupt context, which the host is refused (R192). -/
theorem movesByRow_interruptOnly (host : s.context = .host) {ch : ChanId} (k : Chan → Result) :
    MovesByRow i s (withChannel ch s fun c => interruptOnly s (k c)) :=
  movesByRow_withChannel fun _ => by
    rw [interruptOnly_host host]
    exact movesByRow_of_chans rfl

end Rows

theorem writeField_state (c : Chan) (f : CfgField) (v : Word) : (writeField c f v).state = c.state := by
  rw [writeField_eq]
  split <;> rfl

theorem released_state (c : Chan) : (released c).state = c.state := by unfold released; split <;> rfl

section Commands
variable (s : State) (ch : ChanId)

theorem execCfgWrite_movesByRow (field : Imm16) (value : Word) :
    MovesByRow (.cfgWrite ch field value) s (execCfgWrite ch field value s) := by
  refine movesByRow_withChannel fun hch => ?_
  cases fieldOfId field with
  | status _ => exact movesByRow_respond
  | unknown => exact movesByRow_respond
  | config f =>
    refine movesByRow_unlessBusy hch ?_
    split
    · exact movesByRow_answer_kept hch (writeField_state _ f value)
    · exact movesByRow_respond

theorem execCfgRead_movesByRow (field : Imm16) : MovesByRow (.cfgRead ch field) s (execCfgRead ch field s) := by
  refine movesByRow_withChannel fun _ => ?_
  cases fieldOfId field <;> exact movesByRow_respond

theorem execBufWrite_movesByRow (addr : Imm16) (data : Byte) :
    MovesByRow (.bufWrite ch addr data) s (execBufWrite ch addr data s) := by
  refine movesByRow_withChannel fun hch => ?_
  split
  · exact movesByRow_respond
  refine movesByRow_unlessBusy hch ?_
  cases written : memWrite s.params (s.chan ch) addr.toNat data with
  | error _ => trivial
  | ok d =>
    obtain ⟨-, rfl⟩ := memWrite_ok written
    exact movesByRow_answer_kept hch rfl

theorem execBufRead_movesByRow (addr : Imm16) : MovesByRow (.bufRead ch addr) s (execBufRead ch addr s) := by
  refine movesByRow_withChannel fun _ => ?_
  split
  · exact movesByRow_respond
  cases memRead s.params ch (s.chan ch) addr.toNat with
  | error _ => trivial
  | ok _ => exact movesByRow_respond

theorem execTableBuild_movesByRow : MovesByRow (.tableBuild ch) s (execTableBuild ch s) := by
  refine movesByRow_withChannel fun hch => movesByRow_unlessBusy hch ?_
  cases buildTable s.params (s.chan ch) with
  | error _ => exact movesByRow_respond
  | ok _ => exact movesByRow_answer_kept hch rfl

theorem execSetSymbol_movesByRow (sym : Sym) (w : Word) :
    MovesByRow (.setSymbol ch sym w) s (execSetSymbol ch sym w s) := by
  refine movesByRow_withChannel fun hch => movesByRow_unlessBusy hch ?_
  split
  · exact movesByRow_respond
  · exact movesByRow_answer_kept hch rfl

theorem execLookup_movesByRow (sym : Sym) : MovesByRow (.lookup ch sym) s (execLookup ch sym s) := by
  refine movesByRow_withChannel fun _ => ?_
  split <;> exact movesByRow_respond

/-- BEGIN, which binds or releases the channel, leaves STATE (R115). -/
theorem execBegin_movesByRow : MovesByRow (.beginCh ch) s (execBegin ch s) := by
  refine movesByRow_withChannel fun hch => movesByRow_unlessBusy hch ?_
  have same := released_state (s.chan ch)
  unfold released at same
  dsimp only
  generalize (if (s.chan ch).bound then unbind (s.chan ch) else s.chan ch) = c at same
  cases bound : bindChannel s ch c with
  | error _ => exact movesByRow_answer_kept hch same
  | ok d =>
    obtain ⟨-, -, frame⟩ := bindChannel_ok bound
    exact movesByRow_answer_kept hch (by rw [frame]; exact same)

theorem execRender_movesByRow : MovesByRow (.render ch) s (execRender ch s) := by
  rcases Nat.lt_or_ge ch.toNat s.nCh with hch | hch
  · cases h : execRender ch s with
    | fault _ => trivial
    | refused _ => trivial
    | next t =>
      cases execRender_answer hch h with
      | dropped => exact movesByRow_respond
      | oversize => exact movesByRow_answer_kept (st := .oversize) (v := 0) hch rfl
      | completed d same => exact movesByRow_answer_kept hch same
      | started d idle permitted armed interrupt items =>
        exact movesByRow_answer hch (.render idle permitted armed interrupt items)
  · rw [execRender, withChannel_of_ge hch]
    exact movesByRow_of_chans rfl

theorem execStop_movesByRow : MovesByRow (.stop ch) s (execStop ch s) :=
  movesByRow_withChannel fun hch => movesByRow_answer hch (.stop (by rw [forceIdle_eq]))

theorem execPause_movesByRow : MovesByRow (.pause ch) s (execPause ch s) := by
  refine movesByRow_withChannel fun hch => ?_
  split
  · rename_i pauses
    obtain ⟨byte, busy⟩ := pauses
    exact movesByRow_answer hch (.pause byte busy rfl rfl)
  · exact movesByRow_respond

theorem execResume_movesByRow : MovesByRow (.resume ch) s (execResume ch s) := by
  refine movesByRow_withChannel fun hch => ?_
  split
  · exact movesByRow_answer hch (.resume ‹_› rfl rfl)
  · exact movesByRow_respond

theorem execSetMinFrame_movesByRow (us : Word) : MovesByRow (.setMinFrame ch us) s (execSetMinFrame ch us s) := by
  refine movesByRow_withChannel fun hch => movesByRow_unlessBusy hch ?_
  split
  · split
    · exact movesByRow_answer_kept hch rfl
    · exact movesByRow_respond
  · exact movesByRow_answer_kept hch rfl

theorem execSetWidth_movesByRow (w : Word) : MovesByRow (.setWidth ch w) s (execSetWidth ch w s) := by
  refine movesByRow_withChannel fun hch => movesByRow_unlessBusy hch ?_
  split
  · exact movesByRow_answer_kept hch rfl
  · exact movesByRow_respond

end Commands

/-- Of the host's commands only RENDER, PAUSE, RESUME and STOP move STATE, each of its own channel (R122). -/
theorem exec_movesByRow {s : State} (host : s.context = .host) (i : Instr) : MovesByRow i s (exec i s) := by
  cases i with
  | nop => exact movesByRow_respond
  | cfgWrite ch field value => exact execCfgWrite_movesByRow s ch field value
  | cfgRead ch field => exact execCfgRead_movesByRow s ch field
  | bufWrite ch addr data => exact execBufWrite_movesByRow s ch addr data
  | bufRead ch addr => exact execBufRead_movesByRow s ch addr
  | tableBuild ch => exact execTableBuild_movesByRow s ch
  | setSymbol ch sym w => exact execSetSymbol_movesByRow s ch sym w
  | lookup ch sym => exact execLookup_movesByRow s ch sym
  | beginCh ch => exact execBegin_movesByRow s ch
  | render ch => exact execRender_movesByRow s ch
  | stop ch => exact execStop_movesByRow s ch
  | pause ch => exact execPause_movesByRow s ch
  | resume ch => exact execResume_movesByRow s ch
  | setMinFrame ch us => exact execSetMinFrame_movesByRow s ch us
  | setWidth ch w => exact execSetWidth_movesByRow s ch w
  | isrFill ch => rw [exec, execIsrFill]; exact movesByRow_interruptOnly host _
  | pumpStart ch => rw [exec, execPumpStart]; exact movesByRow_interruptOnly host _
  | pumpMore ch => rw [exec, execPumpMore]; exact movesByRow_withChannel fun _ => movesByRow_respond
  | pumpNext ch => rw [exec, execPumpNext]; exact movesByRow_interruptOnly host _
  | pacerQuery ch => rw [exec, execPacerQuery]; exact movesByRow_withChannel fun _ => movesByRow_respond
  | pacerRecord ch => rw [exec, execPacerRecord]; exact movesByRow_interruptOnly host _

/-- The word a host issues next is that of its stream (log 6). -/
theorem takeCommand_of_stream {s t : State} {w : Word × Word} {u : State} (commands : t.commands = s.commands)
    (onward : t.onward = s.onward) (taken : t.takeCommand = some (w, u)) : ∃ u', s.takeCommand = some (w, u') := by
  have same : t.takeCommand.map Prod.fst = s.takeCommand.map Prod.fst := by
    unfold State.takeCommand
    rw [commands, onward]
    split <;> rfl
  rw [taken] at same
  obtain ⟨⟨w', u'⟩, taken', rfl⟩ := Option.map_eq_some_iff.1 same.symm
  exact ⟨u', taken'⟩

/-- A step of the host keeps STATE of a channel, or the command it issues moves it by a row. -/
theorem hostStep_moves {s t : State} (h : hostStep s = .next t) (o : ChanId) :
    (t.chan o).state = (s.chan o).state ∨
    ∃ w u i, s.takeCommand = some (w, u) ∧ decode s.nCh w.1 w.2 = .ok i ∧
      CommandRow s.timeUs o (s.chan o) (t.chan o) i := by
  rcases hostStep_cases h with ⟨-, rfl⟩ | ⟨w, u, v, taken, ran, rfl⟩
  · exact .inl rfl
  have before : ({ u with context := .host } : State).chan o = s.chan o := by rw [takeCommand_frame taken]; rfl
  have time : u.timeUs = s.timeUs := by rw [takeCommand_frame taken]
  have after : (recordHost w.1 w.2 v).chan o = v.chan o := by rw [recordHost_frame]; rfl
  rw [after]
  cases decoded : decode s.nCh w.1 w.2 with
  | error _ =>
    rw [decoded] at ran
    obtain rfl := outcome_next_inj ran
    exact .inl (congrArg Chan.state before)
  | ok i =>
    rw [decoded] at ran
    have moves := exec_movesByRow (s := { u with context := .host }) rfl i
    rw [show exec i { u with context := .host } = .next v from ran] at moves
    have row := moves o
    rw [before, time] at row
    exact .inr ⟨w, u, i, taken, decoded, row⟩

/-! ## STATE under the steps of PT, UART and ISR (R122) -/

/-- A channel replaced by one with the same STATE leaves STATE of every channel. -/
theorem state_setChan {s : State} {ch : ChanId} {d : Chan} (same : d.state = (s.chan ch).state) (o : ChanId) :
    ((s.setChan ch d).chan o).state = (s.chan o).state := by
  by_cases here : o = ch
  case neg => rw [chan_setChan_other s here]
  subst here
  by_cases ho : o.toNat < s.nCh
  · rw [chan_setChan_same ho, same]
  · rw [State.setChan, List.set_eq_of_length_le (Nat.le_of_not_lt ho)]

theorem uartDrain_state (c : Chan) : (uartDrain c).state = c.state := by
  unfold uartDrain
  split <;> rfl

theorem intEn_of_irqPending {c : Chan} (pending : irqPending c = true) : c.intEn = true := by
  rw [irqPending, Bool.and_eq_true] at pending
  exact pending.1

/-- A step of `PT(ch)` in a frame starts the streaming, or ends the frame with the last item (R122, R140). -/
theorem ptEmit_state {p : Params} {c : Chan} (ok : ChanOk p c) (loaded : c.ptq ≠ []) :
    c.cfg.transportKind = .pulse ∧ (c.state = .armed ∨ c.state = .streaming) ∧
      (((ptEmit c).ptq ≠ [] ∧ (ptEmit c).state = .streaming) ∨ ((ptEmit c).ptq = [] ∧ (ptEmit c).state = .idle)) := by
  have pulse : c.cfg.transportKind = .pulse := by
    cases kind : c.cfg.transportKind with
    | pulse => rfl
    | byte => exact absurd (ok.byteNoItems kind) loaded
  have busy := (ok.pulseQueue pulse).1 loaded
  refine ⟨pulse, busy, ?_⟩
  obtain ⟨d, rest, queue⟩ := List.exists_cons_of_ne_nil loaded
  obtain ⟨trace, line, ⟨more, after⟩ | ⟨-, after⟩⟩ := ptEmit_cases queue
  · refine .inl ⟨by rw [after]; exact more, ?_⟩
    rw [after]
    dsimp only
    rcases busy with armed | streaming
    · rw [if_pos armed]
    · rw [if_neg (by rw [streaming]; decide), streaming]
  · exact .inr (by rw [after]; exact ⟨rfl, rfl⟩)

/-- A refill ends the frame exactly where the pump is exhausted (R151, R158). -/
theorem goes_on_or_ends {e c : Chan} (h : (if pumpMore e then e else finishByteFrame e) = c) :
    (c = e ∧ pumpMore e = true) ∨ (c.state = .idle ∧ pumpMore c = false ∧ c.intEn = false) := by
  subst h
  split
  · exact .inl ⟨rfl, ‹_›⟩
  · exact .inr ⟨rfl, Bool.eq_false_of_not_eq_true ‹_›, rfl⟩

/-- A refill keeps STATE, or starts the streaming with the bytes it queued, or ends the frame (R122, R151). -/
theorem refill_state {p : Params} {ch : ChanId} {c c' : Chan} (h : refill p ch c = .ok c') :
    c'.state = c.state ∨
    (c.state = .armed ∧ c'.state = .streaming ∧ c.fifo.length < c'.fifo.length ∧ pumpMore c' = true) ∨
    (c'.state = .idle ∧ pumpMore c' = false ∧ c'.intEn = false) := by
  unfold refill at h
  split at h
  case h_2 => cases h
  rename_i c1 loop
  have same : c1.state = c.state := by rw [refillLoop_frame loop]
  rcases goes_on_or_ends (Except.ok.inj h) with ⟨rfl, more⟩ | ended
  · by_cases streams : c.fifo.length < c1.fifo.length ∧ c1.state = .armed
    · rw [if_pos streams] at more ⊢
      obtain ⟨grown, armed⟩ := streams
      exact .inr (.inl ⟨same.symm.trans armed, rfl, grown, more⟩)
    · rw [if_neg streams]
      exact .inl same
  · exact .inr (.inr ended)

/-- A step of `ISR(ch)` whose interrupt is pending replaces the channel by its refill (R151, R189, R190). -/
theorem isrStep_chan {s t : State} {ch : ChanId} (hch : ch.toNat < s.nCh) (pending : irqPending (s.chan ch) = true)
    (h : isrStep ch s = .next t) :
    refill s.params ch (s.chan ch) = .ok (t.chan ch) ∧ ∀ o, o ≠ ch → t.chan o = s.chan o := by
  obtain ⟨u, filled, rfl⟩ := mapNext_next h
  have hch' : ch.toNat < s.enterInterrupt.nCh := hch
  have pending' : irqPending (s.enterInterrupt.chan ch) = true := pending
  rw [exec, execIsrFill, withChannel_of_lt hch', interruptOnly_interrupt rfl, if_pos pending'] at filled
  cases done : refill s.enterInterrupt.params ch (s.enterInterrupt.chan ch) with
  | error _ => rw [done] at filled; cases filled
  | ok d =>
    rw [done] at filled
    obtain rfl := outcome_next_inj filled
    refine ⟨?_, fun o ne => chan_setChan_other s.enterInterrupt ne d⟩
    rw [chan_leaveInterrupt, chan_setChan_same hch']
    exact done

/-! ## Every change of STATE is a row of the table (R122) -/

/-- Settles O59: the step is that of the agent chosen, in a state with the same channels, time and, for the host, next
command; `hostStep_moves`, `ptEmit_state` and `refill_state` give the row, and UART and CLOCK leave STATE. -/
theorem frameStateMovesOnlyByTheTable : Obligations.FrameStateMovesOnlyByTheTable := by
  intro s t ch inv h c d a issues busy
  rw [step_eq_agentStep] at h
  have chan (o : ChanId) : (nextMove s).2.chan o = s.chan o := by simp only [State.chan, nextMove_chans]
  have nCh : (nextMove s).2.nCh = s.nCh := by simp only [State.nCh, nextMove_chans]
  have params := nextMove_params s
  have moves := nextMove_enabled s
  have stream := nextMove_stream s
  have time := nextMove_timeUs s
  have mover : (nextMove s).1 = a := rfl
  rw [mover] at h moves stream
  generalize (nextMove s).2 = s' at h chan nCh params stream time
  clear_value a
  cases a with
  | clock =>
    obtain rfl := outcome_next_inj h
    exact .inl (congrArg Chan.state (chan ch).symm)
  | uart o =>
    obtain rfl := outcome_next_inj h
    exact .inl ((congrArg Chan.state (chan ch)).symm.trans (state_setChan (uartDrain_state _) ch).symm)
  | pt o =>
    obtain rfl := outcome_next_inj h
    by_cases here : ch = o
    case neg => exact .inl (congrArg Chan.state ((chan_setChan_other s' here _).trans (chan ch)).symm)
    subst here
    obtain ⟨hch, loaded⟩ : ch.toNat < s.nCh ∧ c.ptq ≠ [] := by simpa [enabled] using moves
    have after : d = ptEmit c := (chan_setChan_same (nCh ▸ hch) _).trans (congrArg ptEmit (chan ch))
    obtain ⟨pulse, inFrame, step⟩ := ptEmit_state (inv.each ch hch) loaded
    rw [← after] at step
    rcases step with ⟨more, streaming⟩ | ⟨empty, idle⟩
    · rcases inFrame with armed | already
      · exact .inr (.inr (.inl ⟨armed, streaming, pulse, rfl, more⟩))
      · exact .inl (already.trans streaming.symm)
    · exact .inr (.inr (.inr (.inl ⟨inFrame, idle, pulse, rfl, empty⟩)))
  | isr o =>
    obtain ⟨ho, pending⟩ : o.toNat < s.nCh ∧ irqPending (s.chan o) = true := by simpa [enabled] using moves
    obtain ⟨filled, others⟩ := isrStep_chan (nCh ▸ ho) ((chan o).symm ▸ pending) h
    by_cases here : ch = o
    case neg => exact .inl (congrArg Chan.state ((others ch here).trans (chan ch)).symm)
    subst here
    rw [chan] at filled
    obtain ⟨byte, inFrame⟩ := (inv.each ch ho).intEn (intEn_of_irqPending pending)
    rcases refill_state filled with same | ⟨armed, streaming, grown, more⟩ | ⟨idle, exhausted, off⟩
    · exact .inl same.symm
    · exact .inr (.inr (.inr (.inr (.inl ⟨armed, streaming, byte, rfl, grown, more⟩))))
    · exact .inr (.inr (.inr (.inr (.inr (.inl ⟨inFrame, idle, byte, rfl, exhausted, off⟩)))))
  | host =>
    rcases hostStep_moves h ch with same | ⟨w, u, i, taken, decoded, row⟩
    · exact .inl ((congrArg Chan.state (chan ch)).symm.trans same.symm)
    rw [chan, time] at row
    rw [nCh] at decoded
    obtain ⟨commands, onward⟩ : s'.commands = s.commands ∧ s'.onward = s.onward :=
      stream.resolve_right fun stopped => stopped.2.2 rfl
    obtain ⟨u', taken'⟩ := takeCommand_of_stream commands onward taken
    have issued : issues i := ⟨rfl, w, u', taken', decoded⟩
    cases row with
    | kept same => exact .inl same.symm
    | render idle permitted armed interrupt items =>
      exact .inr (.inl ⟨idle, armed, issued, permitted, interrupt, items⟩)
    | pause byte inFrame paused off =>
      exact .inr (.inr (.inr (.inr (.inr (.inr (.inl ⟨inFrame, paused, byte, issued, off⟩))))))
    | resume paused streaming on =>
      exact .inr (.inr (.inr (.inr (.inr (.inr (.inr (.inl ⟨paused, streaming, issued, on⟩)))))))
    | stop idle => exact .inr (.inr (.inr (.inr (.inr (.inr (.inr (.inr ⟨idle, issued⟩)))))))

end Sys2Proof.Machine
end

section
/-! PROOF. The pulse-train path of 43_pulse_train.md: what the step of `PT(ch)` leaves of its channel (R140, R141), and
that the items of a frame decode to its bytes (R143, R144). -/
namespace Sys2Proof.Machine

open Sys2Proof

/-! ## The step of the pulse peripheral in closed form (R138, R140, R141) -/

theorem enabled_pt_iff {s : State} {ch : ChanId} (hch : ch.toNat < s.nCh) :
    enabled s (.pt ch) = true ↔ (s.chan ch).ptq ≠ [] := by
  simp [enabled, hch]

/-- The line after an item is at the level of the item's last half that lasts (R141). -/
theorem emitItem_line (c : Chan) (d : Word) :
    (emitItem c d).line = if 0 < descDl d then descLl d else if 0 < descDh d then descLh d else c.line := by
  rw [emitItem, emitHalf]
  split
  · rfl
  · rw [emitHalf]
    split <;> rfl

/-- The channel after a step of PT, whichever of the two ways the frame goes on (R140). -/
theorem ptEmit_eq {c : Chan} {d : Word} {q : List Word} (loaded : c.ptq = d :: q) :
    ptEmit c =
      { c with ptq := q,
               ptTrace := c.ptTrace ++ itemEvents d,
               line := if q = [] then c.cfg.idleLevel
                       else if 0 < descDl d then descLl d else if 0 < descDh d then descLh d else c.line,
               state := if q = [] then .idle else if c.state = .armed then .streaming else c.state,
               curActive := if q = [] then false else c.curActive,
               framesDone := if q = [] then c.framesDone + 1 else c.framesDone } := by
  by_cases last : q = []
  · subst last
    rw [ptEmit_last loaded, drained, List.flatMap_singleton]
    rfl
  · rw [ptEmit_cons loaded, emitItem_frame, emitItem_ptTrace, emitItem_line]
    simp only [if_neg last]
    split <;> rfl

/-- Settles O45: the scheduled step is PT_EMIT on the channel, whose fields are those of `ptEmit_eq`. -/
theorem pulsePeripheralEmitsOneItem : Obligations.PulsePeripheralEmitsOneItem := by
  intro s ch hch c
  refine ⟨enabled_pt_iff hch, fun d q rest loaded scheduled => ?_⟩
  have some_item : c.ptq ≠ [] := by simp [loaded]
  have emitted := ptEmit_eq loaded
  rw [itemEvents, ← List.append_assoc] at emitted
  have same_ibuf : (ptEmit c).ibuf = c.ibuf := by rw [ptEmit_frame]
  have sameMemory : SameMemory s (s.afterPt ch rest) := cell_setChan_of_ibuf { s with schedule := rest } ch same_ibuf
  exact ⟨_, step_of_scheduled_pt hch some_item scheduled, rfl, (chan_setChan_same hch _).trans emitted,
    onlyChannel_setChan _ ch _, sameMemory⟩

/-! ## The items without their markers (R135, R143) -/

theorem dropMarkerFirst_markerItems (w : Word) (l : List Word) : dropMarkerFirst w (markerItems w ++ l) = l := by
  unfold dropMarkerFirst markerItems
  split <;> rfl

theorem dropMarkerLast_markerItems (w : Word) (l : List Word) : dropMarkerLast w (l ++ markerItems w) = l := by
  unfold dropMarkerLast markerItems
  split
  · exact List.append_nil l
  · exact List.dropLast_concat

/-- A table with two different bit entries tells the bit from its item (R133). -/
theorem decide_symbolOfBit {t : SymbolTable} (differ : t.oneBit ≠ t.zeroBit) (b : Bool) :
    decide (symbolOfBit t b = t.oneBit) = b := by
  cases b with
  | false => exact decide_eq_false differ.symm
  | true => exact decide_eq_true rfl

/-- Decoding gives back the bits that were translated (R143). -/
theorem decodeItems_frameItems (p : Params) (ch : ChanId) {c : Chan} (differ : c.table.oneBit ≠ c.table.zeroBit) :
    decodeItems c.table (frameItems p ch c) = frameBits c.width.toNat (scaledFrame p ch c) := by
  have value (x : Byte) : (byteItems c.table c.width.toNat x).map (fun d => decide (d = c.table.oneBit)) =
      bitsOf c.width.toNat x := by
    rw [byteItems, List.map_map]
    exact (List.map_congr_left fun b _ => decide_symbolOfBit differ b).trans (List.map_id _)
  rw [decodeItems, frameItems, List.append_assoc, List.append_assoc, dropMarkerFirst_markerItems, ← List.append_assoc,
    dropMarkerLast_markerItems, dropMarkerLast_markerItems, List.map_flatMap]
  simp only [value, frameBits]

/-! ## Groups of bits, and the byte that eight of them spell (R143, R144) -/

/-- Cutting a concatenation of pieces of one length gives the pieces back. -/
theorem piecesOf_flatMap {α β : Type} {k : Nat} (pos : 0 < k) (f : β → List α) (len : ∀ x, (f x).length = k)
    (l : List β) {fuel : Nat} (enough : l.length ≤ fuel) : piecesOf k fuel (l.flatMap f) = l.map f := by
  induction l generalizing fuel with
  | nil => cases fuel <;> rfl
  | cons x xs ih =>
    obtain ⟨fuel, rfl⟩ := Nat.exists_eq_add_one_of_ne_zero (Nat.ne_zero_of_lt enough)
    have some_bit : ¬((x :: xs).flatMap f).isEmpty = true := by
      rw [List.isEmpty_iff_length_eq_zero, List.flatMap_cons, List.length_append, len]
      omega
    rw [piecesOf, if_neg some_bit, List.flatMap_cons, List.take_left' (len x), List.drop_left' (len x),
      ih (Nat.le_of_succ_le_succ enough), List.map_cons]

theorem bitsOf_length (w : Nat) (x : Byte) : (bitsOf w x).length = w := by
  rw [bitsOf, List.length_map, List.length_range]

theorem frameBits_length (w : Nat) (bytes : List Byte) : (frameBits w bytes).length = bytes.length * w := by
  simp only [frameBits, List.length_flatMap, bitsOf_length, List.map_const', List.sum_replicate, smul_eq_mul]

theorem piecesOf_frameBits {w : Nat} (pos : 0 < w) (bytes : List Byte) :
    piecesOf w (frameBits w bytes).length (frameBits w bytes) = bytes.map (bitsOf w) :=
  piecesOf_flatMap pos (bitsOf w) (bitsOf_length w) bytes (by
    rw [frameBits_length]
    exact Nat.le_mul_of_pos_right _ pos)

/-- The number that the first `w` bits of a byte spell is the byte without its `8 - w` low bits. -/
theorem foldl_bitsOf (x : Byte) {w : Nat} (le : w ≤ 8) :
    (bitsOf w x).foldl (fun n b => 2 * n + b.toNat) 0 = x.toNat / 2 ^ (8 - w) := by
  induction w with
  | zero => exact (Nat.div_eq_of_lt x.isLt).symm
  | succ w ih =>
    obtain ⟨k, hk⟩ : ∃ k, 8 - w = k + 1 := ⟨7 - w, by omega⟩
    have lower : 8 - (w + 1) = k := by omega
    have split_off : bitsOf (w + 1) x = bitsOf w x ++ [x.getMsbD w] := by
      rw [bitsOf, List.range_succ, List.map_append]
      rfl
    have bit_w : (x.getMsbD w).toNat = x.toNat / 2 ^ k % 2 := by
      have index : 8 - 1 - w = k := by omega
      rw [BitVec.getMsbD, decide_eq_true (show w < 8 from le), Bool.true_and, index, BitVec.getLsbD, Nat.toNat_testBit]
    rw [split_off, List.foldl_append, ih (Nat.le_of_succ_le le), List.foldl_cons, List.foldl_nil, bit_w, hk, lower,
      Nat.pow_succ, ← Nat.div_div_eq_div_mul]
    exact Nat.div_add_mod _ 2

theorem byteOfBits_bitsOf (x : Byte) : byteOfBits (bitsOf 8 x) = x := by
  rw [byteOfBits, foldl_bitsOf x le_rfl, Nat.sub_self, Nat.pow_zero, Nat.div_one, BitVec.ofNat_toNat]
  exact BitVec.setWidth_eq x

/-- At unity brightness every byte of a frame stays as it is, framing or cell (R165, R168). -/
theorem scaledFrame_of_unity (p : Params) (ch : ChanId) {c : Chan} (bright : c.cfg.brightness = unity) :
    scaledFrame p ch c = (frameImage ch c).map Prod.fst := by
  have pair (slot : Slot) : (slotValue ch c slot).2 = unity := by
    cases slot with
    | framing b => rfl
    | cell i => exact bright
  rw [scaledFrame, frameImage, List.map_map, List.map_map]
  refine List.map_congr_left fun slot _ => ?_
  exact if_pos (pair slot)

/-- Settles O49: the decoded bits are `frameBits` of the scaled frame, which its width cuts into the scaled bytes. -/
theorem pulseFrameDecodesToItsBytes : Obligations.PulseFrameDecodesToItsBytes := by
  intro p ch c pos _ differ bits
  have pieces : piecesOf c.width.toNat bits.length bits = (scaledFrame p ch c).map (bitsOf c.width.toNat) := by
    have decoded : bits = frameBits c.width.toNat (scaledFrame p ch c) := decodeItems_frameItems p ch differ
    rw [decoded, piecesOf_frameBits pos]
  refine ⟨pieces, fun eight bright => ?_⟩
  have width : c.width.toNat = 8 := congrArg BitVec.toNat eight
  rw [width] at pieces
  rw [pieces, List.map_map, ← scaledFrame_of_unity p ch bright]
  exact (List.map_congr_left fun x _ => byteOfBits_bitsOf x).trans (List.map_id _)

end Sys2Proof.Machine
end

section
/-! PROOF. The byte-serial path of 44_byte_serial.md: the refill in closed form and its bound (R151 to R154), the steps
of `ISR(ch)` and `UART(ch)` (R155, R156, R189, R190), and that the bytes of a frame demultiplex to its bits (R161). -/
namespace Sys2Proof.Machine

open Sys2Proof

/-! ## The refill in closed form (R151 to R154) -/

/-- The scaled values of the frame, from the cursor on, that a loop for `n` values reads (R151). -/
def nextValues (p : Params) (ch : ChanId) (c : Chan) (n : Nat) : List Byte :=
  ((scaledFrame p ch c).drop c.curOffset.toNat).take n

/-- The channel with the bytes of `values` queued and the cursor moved past them (R151). -/
def queueValues (c : Chan) (values : List Byte) : Chan :=
  { c with fifo := c.fifo ++ values.flatMap (valueBytes c),
           curOffset := c.curOffset + BitVec.ofNat 32 values.length }

theorem queueValues_nil (c : Chan) : queueValues c [] = c := by
  rw [queueValues, List.flatMap_nil, List.append_nil, List.length_nil, BitVec.add_zero]

theorem queueValues_singleton (c : Chan) (x : Byte) :
    queueValues c [x] = { c with fifo := c.fifo ++ valueBytes c x, curOffset := c.curOffset + 1 } := by
  rw [queueValues, List.flatMap_singleton]
  rfl

theorem queueValues_queueValues (c : Chan) (xs ys : List Byte) :
    queueValues (queueValues c xs) ys = queueValues c (xs ++ ys) := by
  have bytes : valueBytes (queueValues c xs) = valueBytes c := rfl
  rw [queueValues, bytes]
  simp only [queueValues, List.flatMap_append, List.append_assoc, List.length_append, BitVec.ofNat_add,
    BitVec.add_assoc]

theorem queueValues_curOffset {c : Chan} {values : List Byte} (h : c.curOffset.toNat + values.length < 2 ^ 32) :
    (queueValues c values).curOffset.toNat = c.curOffset.toNat + values.length := by
  rw [queueValues, BitVec.toNat_add, BitVec.toNat_ofNat]
  omega

theorem scaledFrame_queueValues (p : Params) (ch : ChanId) (c : Chan) (values : List Byte) :
    scaledFrame p ch (queueValues c values) = scaledFrame p ch c := rfl

theorem scaledFrame_length (p : Params) (ch : ChanId) (c : Chan) : (scaledFrame p ch c).length = frameLen c.cfg := by
  rw [scaledFrame, List.length_map, frameImage_length]

theorem nextValues_length (p : Params) (ch : ChanId) (c : Chan) (n : Nat) :
    (nextValues p ch c n).length = min n (frameLen c.cfg - c.curOffset.toNat) := by
  rw [nextValues, List.length_take, List.length_drop, scaledFrame_length]

/-- The values that a refill queues are of the frame, so that the cursor does not wrap. -/
theorem queueValues_nextValues_curOffset (p : Params) (ch : ChanId) (c : Chan) (n : Nat) :
    (queueValues c (nextValues p ch c n)).curOffset.toNat = c.curOffset.toNat + (nextValues p ch c n).length := by
  refine queueValues_curOffset ?_
  have frame := frameLen_lt c.cfg
  have cursor := c.curOffset.isLt
  rw [nextValues_length]
  omega

section InFrame
variable {p : Params} {ch : ChanId} {c : Chan} (inFrame : c.curOffset.toNat < (scaledFrame p ch c).length)
include inFrame

theorem nextValues_succ (n : Nat) :
    nextValues p ch c (n + 1) = (scaledFrame p ch c)[c.curOffset.toNat] ::
      nextValues p ch (queueValues c [(scaledFrame p ch c)[c.curOffset.toNat]]) n := by
  have advanced : (queueValues c [(scaledFrame p ch c)[c.curOffset.toNat]]).curOffset.toNat =
      c.curOffset.toNat + 1 := by
    have frame := frameLen_lt c.cfg
    rw [scaledFrame_length] at inFrame
    exact queueValues_curOffset (by rw [List.length_singleton]; omega)
  rw [nextValues, nextValues, List.drop_eq_getElem_cons inFrame, List.take_succ_cons, scaledFrame_queueValues, advanced]

/-- A round of the loop queues the value at the cursor (R151). -/
theorem refillLoop_succ (fits : c.cfg.bufLen.toNat ≤ p.bufMax) (n : Nat) :
    refillLoop p ch (n + 1) c = refillLoop p ch n (queueValues c [(scaledFrame p ch c)[c.curOffset.toNat]]) := by
  have more : pumpMore c = true := by rwa [pumpMore_iff, ← scaledFrame_length p ch c]
  have inImage : c.curOffset.toNat < (frameImage ch c).length := by rwa [scaledFrame, List.length_map] at inFrame
  have next := pumpNext_of_getElem fits (List.getElem?_eq_getElem inImage)
  simp only [refillLoop, if_pos more, next, queueValues_singleton, scaledFrame, List.getElem_map]
  rfl

end InFrame

/-- The loop of R151 for `n` values queues the next `n` of the frame, or as many as are left. -/
theorem refillLoop_eq {p : Params} (ch : ChanId) (n : Nat) {c : Chan} (fits : c.cfg.bufLen.toNat ≤ p.bufMax) :
    refillLoop p ch n c = .ok (queueValues c (nextValues p ch c n)) := by
  induction n generalizing c with
  | zero => rw [nextValues, List.take_zero, queueValues_nil, refillLoop]
  | succ n ih =>
    by_cases inFrame : c.curOffset.toNat < (scaledFrame p ch c).length
    · have rest (x : Byte) := ih (c := queueValues c [x]) fits
      rw [refillLoop_succ inFrame fits, rest, queueValues_queueValues, nextValues_succ inFrame, List.singleton_append]
    · have none_left : nextValues p ch c (n + 1) = [] := by
        rw [nextValues, List.drop_of_length_le (Nat.le_of_not_lt inFrame), List.take_nil]
      have exhausted : ¬pumpMore c = true := by rwa [pumpMore_iff, ← scaledFrame_length p ch c]
      rw [refillLoop, if_neg exhausted, none_left, queueValues_nil]

/-- The refill by what its loop leaves: the frame goes on, streaming once bytes were queued, or ends (R151). -/
theorem refill_of_loop {p : Params} {ch : ChanId} {c d : Chan} (loop : refillLoop p ch (valuesThatFit p c) c = .ok d) :
    refill p ch c = .ok
      (if pumpMore d then
        if c.fifo.length < d.fifo.length ∧ d.state = .armed then { d with state := .streaming } else d
      else finishByteFrame d) := by
  rw [refill, loop]
  by_cases streams : c.fifo.length < d.fifo.length ∧ d.state = .armed
  · simp only [if_pos streams]
    rfl
  · simp only [if_neg streams]

/-- The refill of R151: the bytes of the values that fit, the cursor past them, and the changes of the frame state. -/
theorem refill_eq {p : Params} {ch : ChanId} {c : Chan} (fits : c.cfg.bufLen.toNat ≤ p.bufMax) :
    let values := nextValues p ch c (valuesThatFit p c)
    let bytes := values.flatMap (valueBytes c)
    let ended := (frameImage ch c).length ≤ c.curOffset.toNat + values.length
    refill p ch c = .ok
      { c with fifo := c.fifo ++ bytes,
               curOffset := c.curOffset + BitVec.ofNat 32 values.length,
               state := if ended then .idle else if bytes ≠ [] ∧ c.state = .armed then .streaming else c.state,
               intEn := if ended then false else c.intEn,
               curActive := if ended then false else c.curActive,
               framesDone := if ended then c.framesDone + 1 else c.framesDone } := by
  intro values bytes ended
  have grown : c.fifo.length < (queueValues c values).fifo.length ↔ bytes ≠ [] := by
    rw [queueValues, List.length_append, Nat.lt_add_right_iff_pos, List.length_pos_iff]
  have exhausted : pumpMore (queueValues c values) = true ↔ ¬ended := by
    rw [pumpMore_iff, queueValues_nextValues_curOffset, Nat.not_le, frameImage_length]
    rfl
  have streams : c.fifo.length < (queueValues c values).fifo.length ∧ (queueValues c values).state = .armed ↔
      bytes ≠ [] ∧ c.state = .armed := and_congr_left fun _ => grown
  rw [refill_of_loop (refillLoop_eq ch _ fits)]
  refine congrArg Except.ok ?_
  by_cases done : ended
  · refine (if_neg (exhausted.not_left.2 done)).trans ?_
    simp only [if_pos done]
    rfl
  · refine (if_pos (exhausted.2 done)).trans ((if_congr streams rfl rfl).trans ?_)
    simp only [if_neg done]
    split <;> rfl

/-- The bytes of a scaled value, by its bits and the table (R153, R154). -/
theorem valueBytes_eq (c : Chan) (x : Byte) :
    valueBytes c x =
      if c.cfg.xlatEn then
        (List.range c.width.toNat).flatMap fun i =>
          (List.range c.cfg.bpb.toNat).map (byteOf (if x.getMsbD i then c.table.oneBit else c.table.zeroBit))
      else [x] := by
  rw [valueBytes, bitsOf, List.flatMap_map]
  rfl

/-! ## ISR_FILL (R151, R192) -/

section IsrFill
variable {s : State} {ch : ChanId} (hch : ch.toNat < s.nCh)
include hch

theorem execIsrFill_of_host (host : s.context = .host) : exec (.isrFill ch) s = .next s.contextRefused := by
  rw [exec, execIsrFill, withChannel_of_lt hch, interruptOnly_host host]

theorem execIsrFill_of_refill {d : Chan} (interrupt : s.context = .interrupt) (pending : irqPending (s.chan ch) = true)
    (filled : refill s.params ch (s.chan ch) = .ok d) : exec (.isrFill ch) s = .next (s.setChan ch d) := by
  rw [exec, execIsrFill, withChannel_of_lt hch, interruptOnly_interrupt interrupt, if_pos pending, filled]

end IsrFill

/-- Settles O42: the refill of `refill_eq`, its bytes spelled by `valueBytes_eq`. -/
theorem isrFillQueuesWholeValues : Obligations.IsrFillQueuesWholeValues := by
  intro s ch hch c per n values bytesOfValue bytes ended
  refine ⟨fun interrupt pending fits => ?_, execIsrFill_of_host hch⟩
  have spelled : valueBytes c = bytesOfValue := funext (valueBytes_eq c)
  have filled := refill_eq (p := s.params) (ch := ch) fits
  rw [spelled] at filled
  exact ⟨_, execIsrFill_of_refill hch interrupt pending filled, rfl, chan_setChan_same hch _,
    onlyChannel_setChan s ch _, cell_setChan_of_ibuf s ch rfl⟩

/-! ## The room and the progress of a refill (R152) -/

theorem flatMap_valueBytes_length (c : Chan) (values : List Byte) :
    (values.flatMap (valueBytes c)).length = values.length * bytesPerValue c := by
  simp only [List.length_flatMap, valueBytes_length, List.map_const', List.sum_replicate, smul_eq_mul]

/-- A value of legal width and BPB occupies 1 to 32 bytes (R152). -/
theorem bytesPerValue_range {c : Chan} (bpb : 1 ≤ c.cfg.bpb.toNat ∧ c.cfg.bpb.toNat ≤ 4)
    (width : 1 ≤ c.width.toNat ∧ c.width.toNat ≤ 8) : 1 ≤ bytesPerValue c ∧ bytesPerValue c ≤ 32 := by
  rw [bytesPerValue]
  split
  · exact ⟨Nat.mul_pos bpb.1 width.1, Nat.mul_le_mul bpb.2 width.2⟩
  · decide

/-- Settles O43: the values queued are at most those that fit, and of an empty FIFO at least one fits. -/
theorem refillNeitherOverrunsNorStalls : Obligations.RefillNeitherOverrunsNorStalls := by
  intro s ch hch c interrupt pending fits bpbPos bpbMax widthPos widthMax depth room
  let values := nextValues s.params ch c (valuesThatFit s.params c)
  have count : values.length = min (valuesThatFit s.params c) (frameLen c.cfg - c.curOffset.toNat) :=
    nextValues_length ..
  have fifo : (c.fifo ++ values.flatMap (valueBytes c)).length = c.fifo.length + values.length * bytesPerValue c := by
    rw [List.length_append, flatMap_valueBytes_length]
  refine ⟨_, execIsrFill_of_refill hch interrupt pending (refill_eq fits), ?_⟩
  rw [chan_setChan_same hch]
  refine ⟨?_, ⟨values.length, fifo⟩, fun empty data => ?_⟩
  · have slots : valuesThatFit s.params c * bytesPerValue c ≤ s.params.fifoDepth - c.fifo.length :=
      Nat.div_mul_le_self ..
    have used : values.length * bytesPerValue c ≤ valuesThatFit s.params c * bytesPerValue c :=
      Nat.mul_le_mul_right _ (by omega)
    exact fifo.trans_le (by omega)
  · obtain ⟨perPos, perMax⟩ := bytesPerValue_range ⟨bpbPos, bpbMax⟩ ⟨widthPos, widthMax⟩
    have one_fits : 1 ≤ valuesThatFit s.params c := by
      rw [valuesThatFit, empty]
      exact Nat.div_pos (perMax.trans depth) perPos
    rw [frameImage_length] at data
    have cursor := queueValues_nextValues_curOffset s.params ch c (valuesThatFit s.params c)
    exact (show c.curOffset.toNat < c.curOffset.toNat + values.length by omega).trans_eq cursor.symm

/-! ## The bytes of a frame spell its bits (R161) -/

/-- The bytes of a frame's values are the patterns of the frame's bits (R153). -/
theorem flatMap_valueBytes_of_xlat {c : Chan} (xlat : c.cfg.xlatEn = true) (bytes : List Byte) :
    bytes.flatMap (valueBytes c) =
      (frameBits c.width.toNat bytes).flatMap fun b => bytesOf (symbolOfBit c.table b) c.cfg.bpb.toNat := by
  have value : valueBytes c = fun x =>
      (bitsOf c.width.toNat x).flatMap fun b => bytesOf (symbolOfBit c.table b) c.cfg.bpb.toNat :=
    funext fun _ => if_pos xlat
  rw [value, frameBits, List.flatMap_assoc]

theorem bytesOf_length (w : Word) (n : Nat) : (bytesOf w n).length = n := by
  rw [bytesOf, List.length_map, List.length_range]

/-- A table whose two bit entries differ in their first bytes tells the bits from their patterns (R161). -/
theorem demuxBytes_patterns {t : SymbolTable} {bpb : Nat} (pos : 0 < bpb)
    (differ : bytesOf t.oneBit bpb ≠ bytesOf t.zeroBit bpb) (bits : List Bool) :
    demuxBytes t bpb (bits.flatMap fun b => bytesOf (symbolOfBit t b) bpb) = bits := by
  have told (b : Bool) : decide (bytesOf (symbolOfBit t b) bpb = bytesOf t.oneBit bpb) = b := by
    cases b with
    | false => exact decide_eq_false differ.symm
    | true => exact decide_eq_true rfl
  have pieces := piecesOf_flatMap pos (fun b => bytesOf (symbolOfBit t b) bpb) (fun _ => bytesOf_length ..) bits
    (fuel := (bits.flatMap fun b => bytesOf (symbolOfBit t b) bpb).length) (by
      simp only [List.length_flatMap, bytesOf_length, List.map_const', List.sum_replicate, smul_eq_mul]
      exact Nat.le_mul_of_pos_right _ pos)
  rw [demuxBytes, pieces, List.map_map]
  exact (List.map_congr_left fun b _ => told b).trans (List.map_id _)

/-- Bytes at the full width are spelled by their bits (R161). -/
theorem map_byteOfBits_bitsOf (bytes : List Byte) : (bytes.map (bitsOf 8)).map byteOfBits = bytes := by
  simp only [List.map_map, Function.comp_def, byteOfBits_bitsOf, List.map_id']

/-- Settles O50: the demultiplexed bits are `frameBits` of the scaled frame, which its width cuts into the scaled
bytes. -/
theorem byteStreamDemultiplexesToItsBytes : Obligations.ByteStreamDemultiplexesToItsBytes := by
  intro p ch c bytes bits
  refine ⟨fun xlat bpbPos _ widthPos _ differ => ?_, fun direct => ?_⟩
  · have spelled : bits = frameBits c.width.toNat (scaledFrame p ch c) := by
      rw [← demuxBytes_patterns bpbPos differ (frameBits c.width.toNat (scaledFrame p ch c)),
        ← flatMap_valueBytes_of_xlat xlat]
    have pieces : piecesOf c.width.toNat bits.length bits = (scaledFrame p ch c).map (bitsOf c.width.toNat) := by
      rw [spelled, piecesOf_frameBits widthPos]
    refine ⟨pieces, fun eight bright => ?_⟩
    have width : c.width.toNat = 8 := congrArg BitVec.toNat eight
    rw [width] at pieces
    rw [pieces, map_byteOfBits_bitsOf, scaledFrame_of_unity p ch bright]
  · have value : valueBytes c = fun x => [x] := funext fun _ => if_neg (by simp [direct])
    exact (congrArg (List.flatMap · _) value).trans (List.flatMap_singleton' _)

/-! ## The steps of ISR and UART (R155, R156, R189, R190) -/

theorem irqPending_iff (c : Chan) :
    irqPending c = true ↔ c.intEn = true ∧ (c.fifo.length < c.cfg.fifoThresh.toNat ∨ c.fifo = []) := by
  simp only [irqPending, Bool.and_eq_true, Bool.or_eq_true, decide_eq_true_eq, List.isEmpty_iff]

theorem enabled_isr_iff {s : State} {ch : ChanId} (hch : ch.toNat < s.nCh) :
    enabled s (.isr ch) = true ↔ irqPending (s.chan ch) = true := by
  rw [enabled, decide_eq_true hch, Bool.true_and]

theorem enabled_uart_iff {s : State} {ch : ChanId} (hch : ch.toNat < s.nCh) :
    enabled s (.uart ch) = true ↔ (s.chan ch).fifo ≠ [] := by
  simp [enabled, hch]

/-- A step that the schedule names is the agent's, with the schedule moved on (R6). -/
theorem step_of_schedule_cons {s : State} {a : Agent} {l : List Agent} (scheduled : s.schedule = a :: l)
    (here : enabled s a = true) : step s = agentStep a { s with schedule := l } := by
  rw [step_eq_agentStep, nextMove_of_schedule scheduled here]

/-- Settles O44: the pending condition decides the enabling, and the scheduled step is that of `isrStep`. -/
theorem interruptRunsTheRefillAndReturns : Obligations.InterruptRunsTheRefillAndReturns := by
  intro s ch hch c pending
  have condition : irqPending c = true ↔ pending := irqPending_iff c
  refine ⟨condition, (enabled_isr_iff hch).trans condition, fun u rest raised scheduled filled => ?_⟩
  rw [step_of_schedule_cons scheduled ((enabled_isr_iff hch).2 raised)]
  exact congrArg (mapNext State.leaveInterrupt) filled

/-- Settles O46: the scheduled step is UART_DRAIN on the channel, by `uartDrain_cons`. -/
theorem serialPeripheralEmitsOneByte : Obligations.SerialPeripheralEmitsOneByte := by
  intro s ch hch c
  refine ⟨enabled_uart_iff hch, fun b q rest loaded scheduled => ?_⟩
  have some_byte : c.fifo ≠ [] := by simp [loaded]
  have same_ibuf : (uartDrain c).ibuf = c.ibuf := by rw [uartDrain_cons loaded]
  exact ⟨_, step_of_schedule_cons scheduled ((enabled_uart_iff hch).2 some_byte), rfl,
    (chan_setChan_same hch _).trans (uartDrain_cons loaded), onlyChannel_setChan _ ch _,
    cell_setChan_of_ibuf { s with schedule := rest } ch same_ibuf⟩

end Sys2Proof.Machine
end

section
/-! PROOF. The Frame Pump and the Frame Pacer of 45_frame_pump_pacer.md: the layout of the frame image (R165), the
pump's commands (R166 to R169), the scaling of a byte (R168), and the pacer's commands and its guarantee (R170 to
R175). -/
namespace Sys2Proof.Machine

open Sys2Proof

/-! ## Frame starts (R116, R171, R175) -/

/-- A frame's start at time `now` stands in the channel: its time, and its count (R171, R116). -/
structure StartRecorded (now : Word) (c d : Chan) : Prop where
  lastStartUs : d.lastStartUs = now
  started : d.started = true
  framesStarted : d.framesStarted = c.framesStarted + 1

theorem renderPulse_records_start {s t : State} {ch : ChanId} {c : Chan} {st : Status} (hch : ch.toNat < s.nCh)
    (h : renderPulse s ch c = .next t) (accepted : t.response = some ⟨st, 1⟩) : StartRecorded s.timeUs c (t.chan ch) := by
  unfold renderPulse at h
  split at h
  case isTrue =>
    obtain rfl := outcome_next_inj h
    cases accepted
  case isFalse =>
    split at h
    case h_1 => cases h
    case h_2 seq d sequence =>
      obtain ⟨-, same, -⟩ := pulseSequence_ok rfl sequence
      have count : d.framesStarted = c.framesStarted := by rw [same, pumpStart_framesStarted]
      dsimp only at h
      split at h <;> obtain rfl := outcome_next_inj h <;> rw [chan_respond, chan_setChan_same hch] <;>
        exact ⟨rfl, rfl, congrArg (· + 1) count⟩

section Accepted
variable {s t : State} {ch : ChanId} {st : Status} (h : exec (.render ch) s = .next t)
  (accepted : t.response = some ⟨st, 1⟩)
include h accepted

/-- An answer of value 0 is not the answer of an accepted RENDER. -/
theorem execRender_ne_respond_zero {other : Status} : exec (.render ch) s ≠ .next (s.respond other 0) := by
  intro dropped
  obtain rfl := outcome_next_inj (dropped.symm.trans h)
  cases accepted

variable (hch : ch.toNat < s.nCh)
include hch

theorem ready_of_render_accepted : (s.chan ch).bound = true ∧ (s.chan ch).built = true :=
  not_not.1 fun notReady => execRender_ne_respond_zero h accepted (execRender_of_not_ready hch notReady)

theorem idle_of_render_accepted : (s.chan ch).state = .idle :=
  not_not.1 fun busy => execRender_ne_respond_zero h accepted
    (execRender_of_busy hch (ready_of_render_accepted h accepted hch) busy)

theorem canStart_of_render_accepted : canStart (s.chan ch) s.timeUs = true :=
  not_not.1 fun denied => execRender_ne_respond_zero h accepted
    (execRender_of_denied hch (ready_of_render_accepted h accepted hch) (idle_of_render_accepted h accepted hch) denied)

theorem render_accepted_records_start : StartRecorded s.timeUs (s.chan ch) (t.chan ch) := by
  have ready := ready_of_render_accepted h accepted hch
  have idle := idle_of_render_accepted h accepted hch
  have permitted := canStart_of_render_accepted h accepted hch
  cases kind : (s.chan ch).cfg.transportKind with
  | pulse =>
    rw [execRender_of_pulse hch ready idle permitted kind] at h
    exact renderPulse_records_start hch h accepted
  | byte =>
    rw [execRender_of_byte hch ready idle permitted kind] at h
    obtain rfl := outcome_next_inj h
    rw [chan_respond, chan_setChan_same hch]
    exact ⟨rfl, rfl, rfl⟩

end Accepted

/-- Settles O28: value 1 excludes every refusal of RENDER, and both transports record the start they accept. -/
theorem framesStartOnlyWhenThePacerPermits : Obligations.FramesStartOnlyWhenThePacerPermits := by
  intro s t ch st hch h accepted
  obtain ⟨bound, built⟩ := ready_of_render_accepted h accepted hch
  have permitted := canStart_of_render_accepted h accepted hch
  obtain ⟨time, started, count⟩ := render_accepted_records_start h accepted hch
  refine ⟨permitted, fun before => ?_, idle_of_render_accepted h accepted hch, bound, built, time, started, count⟩
  exact ((canStart_iff _ _).1 permitted).resolve_left (ne_false_of_eq_true before)

/-! ## The frame image (R165) -/

theorem byteOf_eq_ofNat (w : Word) (k : Nat) : byteOf w k = BitVec.ofNat 8 (w.toNat / 2 ^ (8 * k)) := by
  rw [byteOf, BitVec.extractLsb', Nat.shiftRight_eq_div_pow]

/-- The pairs of the low `n` bytes of a framing word, first to last, at unity (R78, R165). -/
def framingPairs (w : Word) (n : Nat) : List (Byte × Multiplier) :=
  (List.range n).map fun k => (BitVec.ofNat 8 (w.toNat / 2 ^ (8 * k)), unity)

/-- The pairs before cell `i`: the group preamble where a group of a pixel pump begins (R165). -/
def groupPairs (f : Cfg) (i : Nat) : List (Byte × Multiplier) :=
  if f.pumpKind = .pixel ∧ 0 < f.groupSize.toNat ∧ i % f.groupSize.toNat = 0 then
    framingPairs f.grpBytes f.grpLen.toNat
  else []

section Image
variable (ch : ChanId) (c : Chan)

theorem map_slotValue_framingSlots (w : Word) (n : BitVec 3) :
    (framingSlots w n).map (slotValue ch c) = framingPairs w n.toNat := by
  rw [framingSlots, bytesOf, List.map_map, List.map_map, framingPairs]
  exact List.map_congr_left fun k _ => congrArg (·, unity) (byteOf_eq_ofNat w k)

theorem map_slotValue_groupPreamble (pixel : c.cfg.pumpKind = .pixel) (i : Nat) :
    (groupPreamble c.cfg i).map (slotValue ch c) = groupPairs c.cfg i := by
  simp only [groupPreamble, groupPairs, pixel, true_and]
  split
  · exact map_slotValue_framingSlots ch c _ _
  · rfl

theorem groupPairs_of_serial (serial : c.cfg.pumpKind = .serial) (i : Nat) : groupPairs c.cfg i = [] := by
  rw [groupPairs, serial]
  exact if_neg fun pixel => nomatch pixel.1

/-- The frame image in closed form: a serial pump has no group, so both pumps lay out their cells alike (R165). -/
theorem frameImage_eq :
    frameImage ch c =
      framingPairs c.cfg.preBytes c.cfg.preLen.toNat ++
      (List.range c.cfg.bufLen.toNat).flatMap (fun i => groupPairs c.cfg i ++ [(cellByte ch c i, c.cfg.brightness)]) ++
      framingPairs c.cfg.appBytes c.cfg.appLen.toNat := by
  simp only [frameImage, frameSlots, List.map_append, map_slotValue_framingSlots]
  congr 2
  cases kind : c.cfg.pumpKind with
  | pixel =>
    simp only [List.map_flatMap, List.map_append, map_slotValue_groupPreamble ch c kind]
    rfl
  | serial =>
    simp only [groupPairs_of_serial c kind, List.nil_append, ← List.map_eq_flatMap, List.map_map]
    rfl

theorem frameLen_eq (f : Cfg) :
    frameLen f = f.preLen.toNat + f.bufLen.toNat + f.appLen.toNat +
      (if f.pumpKind = .pixel ∧ 0 < f.groupSize.toNat then
        (f.bufLen.toNat + f.groupSize.toNat - 1) / f.groupSize.toNat * f.grpLen.toNat else 0) := by
  rw [frameLen]
  cases f.pumpKind <;> simp

end Image

/-- Settles O35: the closed form of the image, and the formula of its length. -/
theorem frameImageIsLaidOut : Obligations.FrameImageIsLaidOut := fun ch c =>
  ⟨frameImage_eq ch c, (frameImage_length ch c).trans (frameLen_eq c.cfg)⟩

/-! ## The pump's commands (R166, R167, R169) -/

/-- The truth value of a response, by the proposition that decides it (R17). -/
theorem respond_boolWord {b : Bool} {P : Prop} (decides : b = true ↔ P) (s : State) :
    (P → s.respond .ok (boolWord b) = s.respond .ok 1) ∧ (¬P → s.respond .ok (boolWord b) = s.respond .ok 0) := by
  cases b with
  | true => exact ⟨fun _ => rfl, fun no => absurd (decides.1 rfl) no⟩
  | false => exact ⟨fun yes => absurd (decides.2 yes) Bool.false_ne_true, fun _ => rfl⟩

section Commands
variable {s : State} {ch : ChanId} (hch : ch.toNat < s.nCh)
include hch

theorem execPumpMore_eq : exec (.pumpMore ch) s = .next (s.respond .ok (boolWord (pumpMore (s.chan ch)))) := by
  rw [exec, execPumpMore, withChannel_of_lt hch]

theorem execPacerQuery_eq :
    exec (.pacerQuery ch) s = .next (s.respond .ok (boolWord (canStart (s.chan ch) s.timeUs))) := by
  rw [exec, execPacerQuery, withChannel_of_lt hch]

theorem execPumpNext_of_host (host : s.context = .host) : exec (.pumpNext ch) s = .next s.contextRefused := by
  rw [exec, execPumpNext, withChannel_of_lt hch, interruptOnly_host host]

variable (interrupt : s.context = .interrupt)
include interrupt

theorem execPumpNext_of_pumpNext {v : Byte} {m : Multiplier} {d : Chan}
    (next : pumpNext s.params ch (s.chan ch) = .ok ((v, m), d)) :
    exec (.pumpNext ch) s = .next ((s.setChan ch d).respond .ok (BitVec.ofNat 32 (m.toNat * 256 + v.toNat))) := by
  have packed : (m ++ v).setWidth 32 = BitVec.ofNat 32 (m.toNat * 256 + v.toNat) := by
    rw [zext_eq_ofNat, toNat_append_eq_add]
    rfl
  rw [exec, execPumpNext, withChannel_of_lt hch, interruptOnly_interrupt interrupt, next, ← packed]

theorem execPumpStart_of_interrupt : exec (.pumpStart ch) s = .next (s.setChan ch (pumpStart (s.chan ch))) := by
  rw [exec, execPumpStart, withChannel_of_lt hch, interruptOnly_interrupt interrupt]

theorem execPacerRecord_of_interrupt :
    exec (.pacerRecord ch) s = .next (s.setChan ch (pacerRecord s.timeUs (s.chan ch))) := by
  rw [exec, execPacerRecord, withChannel_of_lt hch, interruptOnly_interrupt interrupt]

end Commands

/-- Settles O36: `pumpMore` compares with the formula of the length, which `frameImage_length` ties to the image. -/
theorem pumpMoreComparesCursorAndLength : Obligations.PumpMoreComparesCursorAndLength := by
  intro s ch hch c
  have inside_iff : pumpMore c = true ↔ c.curOffset.toNat < (frameImage ch c).length := by
    rw [pumpMore_iff, frameImage_length]
  obtain ⟨one, zero⟩ := respond_boolWord inside_iff s
  rw [execPumpMore_eq hch]
  exact ⟨fun inside => congrArg Host.Outcome.next (one inside),
    fun past => congrArg Host.Outcome.next (zero past.not_gt)⟩

/-- Settles O37: the two answers of `pumpNext`, within the image and past its end, and the host's refusal. -/
theorem pumpNextReadsTheImage : Obligations.PumpNextReadsTheImage := by
  intro s ch hch c
  refine ⟨fun v m interrupt here fits => ?_, fun interrupt past => ?_, fun host => execPumpNext_of_host hch host⟩
  · exact ⟨_, execPumpNext_of_pumpNext hch interrupt (pumpNext_of_getElem fits here), rfl,
      setChan_respond_frame hch _ _ _ rfl⟩
  · exact ⟨_, execPumpNext_of_pumpNext hch interrupt (pumpNext_of_length_le past), rfl,
      setChan_respond_frame hch { c with err := c.err ||| errOverread } _ _ rfl⟩

/-- Settles O38: either command replaces its channel by one with the same buffer, and answers nothing. -/
theorem pumpStartAndPacerRecordInTheInterruptContext : Obligations.PumpStartAndPacerRecordInTheInterruptContext := by
  intro s ch hch interrupt
  have replaced (d : Chan) (buffer : d.ibuf = (s.chan ch).ibuf) :
      (s.setChan ch d).chan ch = d ∧ OnlyChannel ch s (s.setChan ch d) ∧ SameMemory s (s.setChan ch d) ∧
        (s.setChan ch d).response = s.response :=
    ⟨chan_setChan_same hch d, onlyChannel_setChan s ch d, cell_setChan_of_ibuf s ch buffer, rfl⟩
  exact ⟨⟨_, execPumpStart_of_interrupt hch interrupt, replaced _ rfl⟩,
    ⟨_, execPacerRecord_of_interrupt hch interrupt, replaced _ rfl⟩⟩

/-! ## The pacer's query and the scaling of a byte (R168, R170, R172) -/

/-- The 32-bit wrap-around difference, on numbers (R172). -/
theorem toNat_sub_wraps (x y : Word) : (x - y).toNat = (x.toNat + 2 ^ 32 - y.toNat) % 2 ^ 32 := by
  rw [BitVec.toNat_sub]
  congr 1
  omega

/-- Settles O39: `canStart` on numbers, by `toNat_sub_wraps`. -/
theorem pacerQueryComparesTheDifference : Obligations.PacerQueryComparesTheDifference := by
  intro s ch hch c permits
  have permits_iff : canStart c s.timeUs = true ↔ permits := by rw [canStart_iff, toNat_sub_wraps]
  obtain ⟨one, zero⟩ := respond_boolWord permits_iff s
  rw [execPacerQuery_eq hch]
  exact ⟨fun permitted => congrArg Host.Outcome.next (one permitted),
    fun denied => congrArg Host.Outcome.next (zero denied)⟩

theorem scale_unity (f : ScaleFn) (v : Byte) : scale f v unity = v := if_pos rfl

/-- A multiplier up to unity makes no byte larger, so the product over 256 is a byte. -/
theorem scale_standard_toNat (v : Byte) {m : Multiplier} (le : m.toNat ≤ 256) :
    (scale .standard v m).toNat = v.toNat * m.toNat / 256 := by
  have shrinks : v.toNat * m.toNat / 256 ≤ v.toNat :=
    Nat.div_le_of_le_mul ((Nat.mul_le_mul_left _ le).trans_eq (Nat.mul_comm ..))
  by_cases h : m = unity
  · rw [h, scale_unity]
    exact (Nat.mul_div_cancel v.toNat (by decide : 0 < 256)).symm
  · rw [scale, if_neg h]
    exact Nat.mod_eq_of_lt (shrinks.trans_lt v.isLt)

/-- Settles O41: unity is checked before the function, and the default's product over 256 is a byte. -/
theorem scaleIsUnityAt256 : Obligations.ScaleIsUnityAt256 :=
  ⟨scale_unity, fun v _ le => scale_standard_toNat v le⟩

end Sys2Proof.Machine
end

section
/-! PROOF. Errors and interference of 60_exceptions.md: the commands of the interrupt context issued by the host (R192),
the sticky bits (R186), and what a command of one channel has to do with the others (R197). One relation of two states
carries R186 and R197 (`SameChange`): on states that look alike to its channel, a command replaces that channel, GERR and
the response port by the same values, and clears no sticky bit. With the two states equal it says what one command
changes. -/
namespace Sys2Proof.Machine

open Sys2Proof

/-! ## The commands of the interrupt context (R192) -/

section InternalCommands
variable {s : State} {ch : ChanId} (hch : ch.toNat < s.nCh) (host : s.context = .host)
include hch host

theorem execPumpStart_of_host : exec (.pumpStart ch) s = .next s.contextRefused := by
  rw [exec, execPumpStart, withChannel_of_lt hch, interruptOnly_host host]

theorem execPacerRecord_of_host : exec (.pacerRecord ch) s = .next s.contextRefused := by
  rw [exec, execPacerRecord, withChannel_of_lt hch, interruptOnly_host host]

end InternalCommands

/-- Settles O40: each of the four passes the channel check and is refused by the context check. -/
theorem hostGetsContextForInternalCommands : Obligations.HostGetsContextForInternalCommands := by
  rintro s ch i hch host (rfl | rfl | rfl | rfl)
  · exact execIsrFill_of_host hch host
  · exact execPumpStart_of_host hch host
  · exact execPumpNext_of_host hch host
  · exact execPacerRecord_of_host hch host

/-! ## Bits kept -/

/-- Every bit of `x` is set in `y` too. -/
def BitsKept {w : Nat} (x y : BitVec w) : Prop := x &&& y = x

theorem BitsKept.refl {w : Nat} (x : BitVec w) : BitsKept x x := BitVec.and_self

theorem BitsKept.of_eq {w : Nat} {x y : BitVec w} (h : y = x) : BitsKept x y := h ▸ .refl x

/-- Raising a bit keeps the others (R186). -/
theorem bitsKept_or {w : Nat} (x e : BitVec w) : BitsKept x (x ||| e) := by
  unfold BitsKept
  ext i hi
  rw [BitVec.getElem_and, BitVec.getElem_or]
  cases x[i] <;> rfl

/-! ## Operations on a channel that leave ERR alone -/

theorem writeField_err (c : Chan) (f : CfgField) (v : Word) : (writeField c f v).err = c.err := by
  rw [writeField_eq]
  split <;> rfl

theorem forceIdle_err (c : Chan) : (forceIdle c).err = c.err := by
  unfold forceIdle
  split <;> rfl

theorem released_err (c : Chan) : (released c).err = c.err := by
  unfold released
  split <;> rfl

theorem bindChannel_err {s : State} {ch : ChanId} {c d : Chan} (h : bindChannel s ch c = .ok d) : d.err = c.err := by
  obtain ⟨-, -, same⟩ := bindChannel_ok h
  rw [same]

theorem memWrite_err {p : Params} {c d : Chan} {a : Nat} {v : Byte} (h : memWrite p c a v = .ok d) : d.err = c.err := by
  obtain ⟨-, rfl⟩ := memWrite_ok h
  rfl

theorem ptEmit_err (c : Chan) : (ptEmit c).err = c.err := by rw [ptEmit_frame]

theorem uartDrain_err (c : Chan) : (uartDrain c).err = c.err := by
  unfold uartDrain
  split <;> rfl

/-- The refill reads only while PUMP_MORE holds, so it never reads past the end (R151, R169). -/
theorem refillLoop_err {p : Params} {ch : ChanId} {n : Nat} {c d : Chan} (h : refillLoop p ch n c = .ok d) :
    d.err = c.err := by
  induction n generalizing c with
  | zero => obtain rfl := Except.ok.inj h; rfl
  | succ n ih =>
    simp only [refillLoop] at h
    split at h
    · rename_i more
      split at h
      · rename_i next
        obtain ⟨rfl, -⟩ := pumpNext_of_more more next
        exact (ih h :)
      · cases h
    · obtain rfl := Except.ok.inj h; rfl

theorem refill_err {p : Params} {ch : ChanId} {c d : Chan} (h : refill p ch c = .ok d) : d.err = c.err := by
  unfold refill at h
  split at h
  · rename_i loop
    obtain rfl := Except.ok.inj h
    rw [← refillLoop_err loop]
    split <;> split <;> rfl
  · cases h

/-- PUMP_NEXT past the end raises OVERREAD, and is the pump's only change of ERR (R169). -/
theorem pumpNext_errKept {p : Params} {ch : ChanId} {c d : Chan} {vm : Byte × Multiplier}
    (h : pumpNext p ch c = .ok (vm, d)) : BitsKept c.err d.err := by
  rcases pumpNext_ok h with ⟨-, -, -, rfl⟩ | ⟨-, -, rfl⟩
  · exact .refl _
  · exact bitsKept_or _ _

/-! ## The same change of two states -/

/-- What a command of channel `ch` other than BEGIN reads is the same in both states (R197). -/
structure SameView (ch : ChanId) (s₁ s₂ : State) : Prop where
  params : s₂.params = s₁.params
  nCh : s₂.nCh = s₁.nCh
  timeUs : s₂.timeUs = s₁.timeUs
  gerr : s₂.gerr = s₁.gerr
  context : s₂.context = s₁.context
  response : s₂.response = s₁.response
  chan : s₂.chan ch = s₁.chan ch

theorem SameView.refl (ch : ChanId) (s : State) : SameView ch s s := ⟨rfl, rfl, rfl, rfl, rfl, rfl, rfl⟩

/-- The state with channel `ch`, GERR and the response port replaced. -/
def State.changed (s : State) (ch : ChanId) (d : Chan) (gerr : BitVec 2) (response : Option Response) : State :=
  { s.setChan ch d with gerr := gerr, response := response }

@[simp] theorem changed_nCh (s : State) (ch : ChanId) (d : Chan) (g : BitVec 2) (r : Option Response) :
    (s.changed ch d g r).nCh = s.nCh := nCh_setChan s ch d

theorem chan_changed_same {s : State} {ch : ChanId} (hch : ch.toNat < s.nCh) (d : Chan) (g : BitVec 2)
    (r : Option Response) : (s.changed ch d g r).chan ch = d := chan_setChan_same hch d

theorem chan_changed_other (s : State) {ch o : ChanId} (ne : o ≠ ch) (d : Chan) (g : BitVec 2) (r : Option Response) :
    (s.changed ch d g r).chan o = s.chan o := chan_setChan_other s ne d

/-- A channel that does not exist is not changed. -/
theorem chan_changed_of_ge {s : State} {ch : ChanId} (beyond : s.nCh ≤ ch.toNat) (d : Chan) (g : BitVec 2)
    (r : Option Response) (o : ChanId) : (s.changed ch d g r).chan o = s.chan o := by
  have same : s.setChan ch d = s := by rw [State.setChan, List.set_eq_of_length_le beyond]
  change (s.setChan ch d).chan o = s.chan o
  rw [same]

/-- Both outcomes are the same change of the two states, which clears no sticky bit, or both are the same fault. -/
inductive SameChange (ch : ChanId) (s₁ s₂ : State) : Result → Result → Prop
  | next (d : Chan) (gerr : BitVec 2) (response : Option Response) (errKept : BitsKept (s₁.chan ch).err d.err)
      (gerrKept : BitsKept s₁.gerr gerr) :
      SameChange ch s₁ s₂ (.next (s₁.changed ch d gerr response)) (.next (s₂.changed ch d gerr response))
  | fault (f : Fault) : SameChange ch s₁ s₂ (.fault f) (.fault f)

section Combinators
variable {ch : ChanId} {s₁ s₂ : State}

theorem sameChange_ite {p : Prop} [Decidable p] {a₁ a₂ b₁ b₂ : Result} (yes : p → SameChange ch s₁ s₂ a₁ a₂)
    (no : ¬p → SameChange ch s₁ s₂ b₁ b₂) : SameChange ch s₁ s₂ (if p then a₁ else b₁) (if p then a₂ else b₂) := by
  split
  · exact yes ‹_›
  · exact no ‹_›

variable (view : SameView ch s₁ s₂)
include view

/-- GERR and the response port replaced, and no channel. -/
theorem sameChange_globals {gerr : BitVec 2} {response : Option Response} (kept : BitsKept s₁.gerr gerr) :
    SameChange ch s₁ s₂ (.next { s₁ with gerr := gerr, response := response })
      (.next { s₂ with gerr := gerr, response := response }) := by
  have h : SameChange ch s₁ s₂ _ _ := .next (s₁.chan ch) gerr response (.refl _) kept
  unfold State.changed at h
  rwa [setChan_chan, ← view.chan, setChan_chan] at h

theorem sameChange_respond {st : Status} {v : Word} :
    SameChange ch s₁ s₂ (.next (s₁.respond st v)) (.next (s₂.respond st v)) := by
  have e : s₂.respond st v = { s₂ with gerr := s₁.gerr, response := some ⟨st, v⟩ } := by rw [← view.gerr]; rfl
  rw [e]
  exact sameChange_globals view (.refl _)

theorem sameChange_unchanged : SameChange ch s₁ s₂ (.next s₁) (.next s₂) := by
  have e : s₂ = { s₂ with gerr := s₁.gerr, response := s₁.response } := by rw [← view.gerr, ← view.response]
  have h := sameChange_globals view (response := s₁.response) (.refl s₁.gerr)
  rwa [← e] at h

theorem sameChange_illegal : SameChange ch s₁ s₂ (.next s₁.illegal) (.next s₂.illegal) := by
  have e : s₂.illegal = { s₂ with gerr := s₁.gerr ||| gerrIllegal, response := some ⟨.illegal, 0⟩ } := by
    rw [← view.gerr]; rfl
  rw [e]
  exact sameChange_globals view (bitsKept_or _ _)

theorem sameChange_contextRefused : SameChange ch s₁ s₂ (.next s₁.contextRefused) (.next s₂.contextRefused) := by
  have e : s₂.contextRefused = { s₂ with gerr := s₁.gerr ||| gerrContext, response := some ⟨.context, 0⟩ } := by
    rw [← view.gerr]; rfl
  rw [e]
  exact sameChange_globals view (bitsKept_or _ _)

/-- The channel replaced, and nothing else. -/
theorem sameChange_setChan {d : Chan} (kept : BitsKept (s₁.chan ch).err d.err) :
    SameChange ch s₁ s₂ (.next (s₁.setChan ch d)) (.next (s₂.setChan ch d)) := by
  have e : s₂.setChan ch d = s₂.changed ch d s₁.gerr s₁.response := by rw [← view.gerr, ← view.response]; rfl
  rw [e]
  exact .next d s₁.gerr s₁.response kept (.refl _)

/-- The channel replaced, and an answer. -/
theorem sameChange_answer {d : Chan} {st : Status} {v : Word} (kept : BitsKept (s₁.chan ch).err d.err) :
    SameChange ch s₁ s₂ (.next ((s₁.setChan ch d).respond st v)) (.next ((s₂.setChan ch d).respond st v)) := by
  have e : (s₂.setChan ch d).respond st v = s₂.changed ch d s₁.gerr (some ⟨st, v⟩) := by rw [← view.gerr]; rfl
  rw [e]
  exact .next d s₁.gerr (some ⟨st, v⟩) kept (.refl _)

/-- PRECOND recorded in the command's own channel (R186). -/
theorem sameChange_rejectBusy : SameChange ch s₁ s₂ (.next (s₁.rejectBusy ch)) (.next (s₂.rejectBusy ch)) := by
  have e : s₂.rejectBusy ch =
      (s₂.setChan ch { s₁.chan ch with err := (s₁.chan ch).err ||| errPrecond }).respond .rejectBusy 0 := by
    rw [← view.chan]; rfl
  rw [e]
  exact sameChange_answer view (bitsKept_or _ _)

/-- OVERSIZE recorded in the command's own channel (R186). -/
theorem sameChange_oversize : SameChange ch s₁ s₂ (.next (s₁.raise (.oversize ch) .oversize))
    (.next (s₂.raise (.oversize ch) .oversize)) := by
  have e : s₂.raise (.oversize ch) .oversize =
      (s₂.setChan ch { s₁.chan ch with err := (s₁.chan ch).err ||| errOversize }).respond .oversize 0 := by
    rw [← view.chan]; rfl
  rw [e]
  exact sameChange_answer view (bitsKept_or _ _)

/-- The channel check, and the command's rule on the channel both states hold (R84). -/
theorem sameChange_withChannel {k₁ k₂ : Chan → Result}
    (h : SameChange ch s₁ s₂ (k₁ (s₁.chan ch)) (k₂ (s₁.chan ch))) :
    SameChange ch s₁ s₂ (withChannel ch s₁ k₁) (withChannel ch s₂ k₂) := by
  unfold withChannel
  rw [view.nCh, view.chan]
  exact sameChange_ite (fun _ => h) fun _ => sameChange_illegal view

/-- The context check (R192). -/
theorem sameChange_interruptOnly {r₁ r₂ : Result} (h : SameChange ch s₁ s₂ r₁ r₂) :
    SameChange ch s₁ s₂ (interruptOnly s₁ r₁) (interruptOnly s₂ r₂) := by
  cases hc : s₁.context with
  | host =>
    rw [interruptOnly_host hc, interruptOnly_host (view.context.trans hc)]
    exact sameChange_contextRefused view
  | interrupt =>
    rw [interruptOnly_interrupt hc, interruptOnly_interrupt (view.context.trans hc)]
    exact h

/-- The busy check (R97). -/
theorem sameChange_unlessBusy {c : Chan} {r₁ r₂ : Result} (h : SameChange ch s₁ s₂ r₁ r₂) :
    SameChange ch s₁ s₂ (if c.state ≠ .idle then .next (s₁.rejectBusy ch) else r₁)
      (if c.state ≠ .idle then .next (s₂.rejectBusy ch) else r₂) :=
  sameChange_ite (fun _ => sameChange_rejectBusy view) fun _ => h

end Combinators

/-! ## The commands make the same change -/

section Commands
variable {ch : ChanId} {s₁ s₂ : State} (view : SameView ch s₁ s₂)
include view

/-- A status field is read off the channel and the globals (R44). -/
theorem statusValue_of_view (c : Chan) (g : StatusField) : statusValue s₂ c g = statusValue s₁ c g := by
  cases g <;> simp only [statusValue, view.params, view.nCh, view.timeUs, view.gerr]

theorem execCfgWrite_sameChange (field : Imm16) (value : Word) :
    SameChange ch s₁ s₂ (execCfgWrite ch field value s₁) (execCfgWrite ch field value s₂) := by
  refine sameChange_withChannel view ?_
  rw [view.params]
  cases fieldOfId field with
  | status _ => exact sameChange_respond view
  | unknown => exact sameChange_respond view
  | config f =>
    refine sameChange_unlessBusy view (sameChange_ite (fun _ => ?_) fun _ => sameChange_respond view)
    exact sameChange_answer view (.of_eq (writeField_err _ f value))

theorem execCfgRead_sameChange (field : Imm16) :
    SameChange ch s₁ s₂ (execCfgRead ch field s₁) (execCfgRead ch field s₂) := by
  refine sameChange_withChannel view ?_
  cases fieldOfId field with
  | config f => exact sameChange_respond view
  | status g => dsimp only; rw [statusValue_of_view view]; exact sameChange_respond view
  | unknown => exact sameChange_respond view

theorem execBufWrite_sameChange (addr : Imm16) (data : Byte) :
    SameChange ch s₁ s₂ (execBufWrite ch addr data s₁) (execBufWrite ch addr data s₂) := by
  refine sameChange_withChannel view (sameChange_ite (fun _ => sameChange_respond view) fun _ => ?_)
  refine sameChange_unlessBusy view ?_
  rw [view.params]
  cases written : memWrite s₁.params (s₁.chan ch) addr.toNat data with
  | error f => exact .fault f
  | ok d => exact sameChange_answer view (.of_eq (memWrite_err written))

theorem execBufRead_sameChange (addr : Imm16) :
    SameChange ch s₁ s₂ (execBufRead ch addr s₁) (execBufRead ch addr s₂) := by
  refine sameChange_withChannel view (sameChange_ite (fun _ => sameChange_respond view) fun _ => ?_)
  rw [view.params]
  cases memRead s₁.params ch (s₁.chan ch) addr.toNat with
  | error f => exact .fault f
  | ok v => exact sameChange_respond view

theorem execTableBuild_sameChange : SameChange ch s₁ s₂ (execTableBuild ch s₁) (execTableBuild ch s₂) := by
  refine sameChange_withChannel view (sameChange_unlessBusy view ?_)
  rw [view.params]
  cases buildTable s₁.params (s₁.chan ch) with
  | error reason => exact sameChange_respond view
  | ok t => exact sameChange_answer view (.refl _)

theorem execSetSymbol_sameChange (sym : Sym) (w : Word) :
    SameChange ch s₁ s₂ (execSetSymbol ch sym w s₁) (execSetSymbol ch sym w s₂) :=
  sameChange_withChannel view (sameChange_unlessBusy view
    (sameChange_ite (fun _ => sameChange_respond view) fun _ => sameChange_answer view (.refl _)))

theorem execLookup_sameChange (sym : Sym) :
    SameChange ch s₁ s₂ (execLookup ch sym s₁) (execLookup ch sym s₂) :=
  sameChange_withChannel view
    (sameChange_ite (fun _ => sameChange_respond view) fun _ => sameChange_respond view)

theorem renderPulse_sameChange :
    SameChange ch s₁ s₂ (renderPulse s₁ ch (s₁.chan ch)) (renderPulse s₂ ch (s₁.chan ch)) := by
  unfold renderPulse
  rw [view.params, view.timeUs]
  refine sameChange_ite (fun _ => sameChange_oversize view) fun _ => ?_
  cases sequence : pulseSequence s₁.params ch (pumpStart (s₁.chan ch)) with
  | error f => exact .fault f
  | ok r =>
    obtain ⟨-, same, -⟩ := pulseSequence_ok rfl sequence
    have kept : BitsKept (s₁.chan ch).err r.2.err := .of_eq (by rw [same]; rfl)
    exact sameChange_ite (fun _ => sameChange_answer view kept) fun _ => sameChange_answer view kept

theorem renderByte_sameChange :
    SameChange ch s₁ s₂ (renderByte s₁ ch (s₁.chan ch)) (renderByte s₂ ch (s₁.chan ch)) := by
  unfold renderByte
  rw [view.timeUs]
  exact sameChange_answer view (.refl _)

theorem execRender_sameChange : SameChange ch s₁ s₂ (execRender ch s₁) (execRender ch s₂) := by
  refine sameChange_withChannel view (sameChange_ite (fun _ => sameChange_respond view) fun _ => ?_)
  refine sameChange_ite (fun _ => sameChange_respond view) fun _ => ?_
  rw [view.timeUs]
  refine sameChange_ite (fun _ => sameChange_respond view) fun _ => ?_
  cases (s₁.chan ch).cfg.transportKind with
  | pulse => exact renderPulse_sameChange view
  | byte => exact renderByte_sameChange view

theorem execStop_sameChange : SameChange ch s₁ s₂ (execStop ch s₁) (execStop ch s₂) :=
  sameChange_withChannel view (sameChange_answer view (.of_eq (forceIdle_err _)))

theorem execPause_sameChange : SameChange ch s₁ s₂ (execPause ch s₁) (execPause ch s₂) :=
  sameChange_withChannel view
    (sameChange_ite (fun _ => sameChange_answer view (.refl _)) fun _ => sameChange_respond view)

theorem execResume_sameChange : SameChange ch s₁ s₂ (execResume ch s₁) (execResume ch s₂) :=
  sameChange_withChannel view
    (sameChange_ite (fun _ => sameChange_answer view (.refl _)) fun _ => sameChange_respond view)

theorem execSetMinFrame_sameChange (us : Word) :
    SameChange ch s₁ s₂ (execSetMinFrame ch us s₁) (execSetMinFrame ch us s₂) := by
  refine sameChange_withChannel view (sameChange_unlessBusy view ?_)
  rw [view.params]
  refine sameChange_ite (fun _ => ?_) fun _ => sameChange_answer view (.refl _)
  exact sameChange_ite (fun _ => sameChange_answer view (.refl _)) fun _ => sameChange_respond view

theorem execSetWidth_sameChange (w : Word) :
    SameChange ch s₁ s₂ (execSetWidth ch w s₁) (execSetWidth ch w s₂) :=
  sameChange_withChannel view (sameChange_unlessBusy view
    (sameChange_ite (fun _ => sameChange_answer view (.refl _)) fun _ => sameChange_respond view))

theorem execIsrFill_sameChange : SameChange ch s₁ s₂ (execIsrFill ch s₁) (execIsrFill ch s₂) := by
  refine sameChange_withChannel view (sameChange_interruptOnly view ?_)
  rw [view.params]
  refine sameChange_ite (fun _ => ?_) fun _ => sameChange_unchanged view
  cases filled : refill s₁.params ch (s₁.chan ch) with
  | error f => exact .fault f
  | ok d => exact sameChange_setChan view (.of_eq (refill_err filled))

theorem execPumpStart_sameChange : SameChange ch s₁ s₂ (execPumpStart ch s₁) (execPumpStart ch s₂) :=
  sameChange_withChannel view (sameChange_interruptOnly view (sameChange_setChan view (.refl _)))

theorem execPumpMore_sameChange : SameChange ch s₁ s₂ (execPumpMore ch s₁) (execPumpMore ch s₂) :=
  sameChange_withChannel view (sameChange_respond view)

theorem execPumpNext_sameChange : SameChange ch s₁ s₂ (execPumpNext ch s₁) (execPumpNext ch s₂) := by
  refine sameChange_withChannel view (sameChange_interruptOnly view ?_)
  rw [view.params]
  cases next : pumpNext s₁.params ch (s₁.chan ch) with
  | error f => exact .fault f
  | ok r => exact sameChange_answer view (pumpNext_errKept next)

theorem execPacerQuery_sameChange : SameChange ch s₁ s₂ (execPacerQuery ch s₁) (execPacerQuery ch s₂) := by
  refine sameChange_withChannel view ?_
  rw [view.timeUs]
  exact sameChange_respond view

theorem execPacerRecord_sameChange : SameChange ch s₁ s₂ (execPacerRecord ch s₁) (execPacerRecord ch s₂) := by
  refine sameChange_withChannel view (sameChange_interruptOnly view ?_)
  rw [view.timeUs]
  exact sameChange_setChan view (.refl _)

/-- A command other than BEGIN makes the same change of two states that its channel cannot tell apart (R197). -/
theorem exec_sameChange {i : Instr} (names : i.channel = some ch) (notBegin : i ≠ .beginCh ch) :
    SameChange ch s₁ s₂ (exec i s₁) (exec i s₂) := by
  cases i <;> cases names
  case beginCh => exact absurd rfl notBegin
  case cfgWrite field value => exact execCfgWrite_sameChange view field value
  case cfgRead field => exact execCfgRead_sameChange view field
  case bufWrite addr data => exact execBufWrite_sameChange view addr data
  case bufRead addr => exact execBufRead_sameChange view addr
  case tableBuild => exact execTableBuild_sameChange view
  case setSymbol sym w => exact execSetSymbol_sameChange view sym w
  case lookup sym => exact execLookup_sameChange view sym
  case render => exact execRender_sameChange view
  case stop => exact execStop_sameChange view
  case pause => exact execPause_sameChange view
  case resume => exact execResume_sameChange view
  case setMinFrame us => exact execSetMinFrame_sameChange view us
  case setWidth w => exact execSetWidth_sameChange view w
  case isrFill => exact execIsrFill_sameChange view
  case pumpStart => exact execPumpStart_sameChange view
  case pumpMore => exact execPumpMore_sameChange view
  case pumpNext => exact execPumpNext_sameChange view
  case pacerQuery => exact execPacerQuery_sameChange view
  case pacerRecord => exact execPacerRecord_sameChange view

end Commands

/-- Settles O57: both answers are the same change (`exec_sameChange`), which reads alike on the channel. -/
theorem commandsDependOnlyOnTheirChannel : Obligations.CommandsDependOnlyOnTheirChannel := by
  intro i ch s₁ s₂ t₁ names notBegin params nCh timeUs gerr context response chan ran
  have view : SameView ch s₁ s₂ :=
    ⟨params.symm, nCh.symm, timeUs.symm, gerr.symm, context.symm, response.symm, chan.symm⟩
  have same := exec_sameChange view names notBegin
  rw [ran] at same
  generalize exec i s₂ = r₂ at same ⊢
  cases same with
  | next d g r =>
    refine ⟨_, rfl, rfl, ?_, rfl⟩
    rcases Nat.lt_or_ge ch.toNat s₁.nCh with exists₁ | beyond
    · rw [chan_changed_same exists₁, chan_changed_same (nCh ▸ exists₁)]
    · rw [chan_changed_of_ge beyond, chan_changed_of_ge (nCh ▸ beyond), chan]

/-! ## What a command changes -/

/-- BEGIN reads the other channels' claims, but changes its own channel alone (R115). -/
theorem execBegin_sameChange (ch : ChanId) (s : State) : SameChange ch s s (execBegin ch s) (execBegin ch s) := by
  have view := SameView.refl ch s
  refine sameChange_withChannel view (sameChange_unlessBusy view ?_)
  dsimp only
  generalize unboundFirst : (if (s.chan ch).bound then unbind (s.chan ch) else s.chan ch) = c
  have errOfReleased : c.err = (s.chan ch).err := unboundFirst ▸ released_err (s.chan ch)
  cases bound : bindChannel s ch c with
  | error v => exact sameChange_answer view (.of_eq errOfReleased)
  | ok d => exact sameChange_answer view (.of_eq ((bindChannel_err bound).trans errOfReleased))

/-- A command that names a channel leaves a state with that channel, GERR and the response port replaced, and no sticky
bit cleared. -/
theorem exec_changed {i : Instr} {ch : ChanId} {s t : State} (names : i.channel = some ch) (h : exec i s = .next t) :
    ∃ d g r, t = s.changed ch d g r ∧ BitsKept (s.chan ch).err d.err ∧ BitsKept s.gerr g := by
  have change : SameChange ch s s (exec i s) (exec i s) := by
    by_cases isBegin : i = .beginCh ch
    · subst isBegin; exact execBegin_sameChange ch s
    · exact exec_sameChange (.refl ch s) names isBegin
  rw [h] at change
  cases change with
  | next d g r errKept gerrKept => exact ⟨d, g, r, rfl, errKept, gerrKept⟩

/-- A command that names no channel is NOP, which only answers (R72, R90). -/
theorem exec_of_channel_none {i : Instr} {s t : State} (names : i.channel = none) (h : exec i s = .next t) :
    t = s.respond .ok 0 := by
  cases i with
  | nop => exact (outcome_next_inj h).symm
  | _ => cases names

/-- Settles O56: NOP changes no channel, and any other command only the one it names (`exec_changed`). -/
theorem commandsChangeOnlyTheirChannel : Obligations.CommandsChangeOnlyTheirChannel := by
  intro s t i h
  cases names : i.channel with
  | none =>
    obtain rfl := exec_of_channel_none names h
    exact ⟨rfl, rfl, rfl, fun _ _ => ⟨rfl, fun _ => rfl⟩⟩
  | some ch =>
    obtain ⟨d, g, r, rfl, -, -⟩ := exec_changed names h
    refine ⟨changed_nCh s ch d g r, rfl, rfl, fun o other => ?_⟩
    have same := chan_changed_other s (fun e => other (congrArg some e.symm)) d g r (o := o)
    exact ⟨same, fun a => by rw [State.cell, State.cell, same]⟩

/-! ## Sticky bits (R186) -/

/-- Every sticky bit set before is set after. -/
structure StickyKept (s t : State) : Prop where
  gerr : BitsKept s.gerr t.gerr
  err : ∀ ch : ChanId, BitsKept (s.chan ch).err (t.chan ch).err

theorem StickyKept.refl (s : State) : StickyKept s s := ⟨.refl _, fun _ => .refl _⟩

/-- The sticky bits are read off the channels and GERR. -/
theorem StickyKept.congr {s t s' t' : State} (h : StickyKept s t) (chansBefore : s'.chans = s.chans)
    (gerrBefore : s'.gerr = s.gerr) (chansAfter : t'.chans = t.chans) (gerrAfter : t'.gerr = t.gerr) :
    StickyKept s' t' where
  gerr := by rw [gerrBefore, gerrAfter]; exact h.gerr
  err ch := by simp only [State.chan, chansBefore, chansAfter]; exact h.err ch

theorem stickyKept_changed {s : State} {ch : ChanId} {d : Chan} {g : BitVec 2} {r : Option Response}
    (errKept : BitsKept (s.chan ch).err d.err) (gerrKept : BitsKept s.gerr g) : StickyKept s (s.changed ch d g r) := by
  refine ⟨gerrKept, fun o => ?_⟩
  by_cases here : o = ch
  case neg => rw [chan_changed_other s here]; exact .refl _
  subst here
  rcases Nat.lt_or_ge o.toNat s.nCh with hch | beyond
  · rw [chan_changed_same hch]; exact errKept
  · rw [chan_changed_of_ge beyond]; exact .refl _

theorem stickyKept_setChan {s : State} {ch : ChanId} {d : Chan} (same : d.err = (s.chan ch).err) :
    StickyKept s (s.setChan ch d) :=
  stickyKept_changed (r := s.response) (.of_eq same) (.refl s.gerr)

theorem stickyKept_illegal (s : State) : StickyKept s s.illegal := ⟨bitsKept_or _ _, fun _ => .refl _⟩

theorem exec_stickyKept {i : Instr} {s t : State} (h : exec i s = .next t) : StickyKept s t := by
  cases names : i.channel with
  | none =>
    obtain rfl := exec_of_channel_none names h
    exact (StickyKept.refl s).congr rfl rfl rfl rfl
  | some ch =>
    obtain ⟨d, g, r, rfl, errKept, gerrKept⟩ := exec_changed names h
    exact stickyKept_changed errKept gerrKept

theorem runDecoded_stickyKept {w : Except DecodeError Instr} {s t : State} (h : runDecoded w s = .next t) :
    StickyKept s t := by
  cases w with
  | ok i => exact exec_stickyKept h
  | error _ =>
    obtain rfl := outcome_next_inj h
    exact stickyKept_illegal s

theorem hostStep_stickyKept {s t : State} (h : hostStep s = .next t) : StickyKept s t := by
  rcases hostStep_cases h with ⟨-, rfl⟩ | ⟨w, u, v, taken, ran, rfl⟩
  · exact .refl _
  rw [recordHost_frame]
  exact (runDecoded_stickyKept ran).congr (by rw [takeCommand_frame taken]) (by rw [takeCommand_frame taken]) rfl rfl

theorem agentStep_stickyKept {a : Agent} {s t : State} (h : agentStep a s = .next t) : StickyKept s t := by
  cases a with
  | host => exact hostStep_stickyKept h
  | isr ch =>
    obtain ⟨u, ran, rfl⟩ := mapNext_next h
    exact (exec_stickyKept ran).congr rfl rfl rfl rfl
  | pt ch =>
    obtain rfl := outcome_next_inj h
    exact stickyKept_setChan (ptEmit_err _)
  | uart ch =>
    obtain rfl := outcome_next_inj h
    exact stickyKept_setChan (uartDrain_err _)
  | clock =>
    obtain rfl := outcome_next_inj h
    exact (StickyKept.refl s).congr rfl rfl rfl rfl

/-- Settles O55: the choice of the agent leaves the sticky bits, and every agent's step only sets them. -/
theorem stickyBitsStaySet : Obligations.StickyBitsStaySet := by
  intro s t h
  have unmoved : (nextMove s).2.gerr = s.gerr := by rw [nextMove_frame]
  obtain ⟨gerr, err⟩ := (agentStep_stickyKept h).congr (nextMove_chans s).symm unmoved.symm rfl rfl
  exact ⟨gerr, err⟩

end Sys2Proof.Machine
end

section
/-! PROOF. Reset and the end of a run, of 70_reset_and_hazards.md: what reset leaves (R205), and quiescence (R217). In a
quiescent state only CLOCK is enabled, so every step is CLOCK's. That a run whose host stops reaches such a state is a
descent: `State.work` counts what the queues, the pumps and the interrupts have still to do, no step of an agent other
than the host adds to it, and an agent with work of its own stays enabled until it moves, which takes work off. -/
namespace Sys2Proof.Machine

open Sys2Proof

/-! ## Reset (R205) -/

/-- No cell is written at reset (R43). -/
theorem cell_resetWith (p : Params) (n : Nat) (ch : ChanId) (a : Nat) :
    (State.resetWith p n).cell ch a = Config.ibufInit ch.toNat a := by
  rw [State.cell, chan_resetWith]
  exact cellByte_of_unwritten ch rfl

/-- Settles O51: every channel is `Chan.reset`, whose fields stand in its definition. -/
theorem resetLeavesTheStatedValues : Obligations.ResetLeavesTheStatedValues := by
  intro p n ch hch s c
  have fresh : c = Chan.reset := chan_resetWith p n ch
  have entries : ∀ y, tableGet Chan.reset.table y = 0 := by intro y; cases y <;> rfl
  have cells : ∀ a, s.cell ch a = Config.ibufInit ch.toNat a := cell_resetWith p n ch
  rw [fresh]
  refine ⟨by decide, by decide, ?_, rfl, rfl, rfl, rfl, cells⟩
  exact ⟨rfl, rfl, rfl, rfl, rfl, rfl, rfl, entries, by decide⟩

/-! ## The host's stream once the host has stopped (R217, log 6) -/

/-- Whether the host has a command to issue is read off its stream alone. -/
theorem takeCommand_none_of_stream {s t : State} (commands : t.commands = s.commands) (onward : t.onward = s.onward)
    (stopped : s.takeCommand = none) : t.takeCommand = none := by
  cases taken : t.takeCommand with
  | none => rfl
  | some wu =>
    obtain ⟨_, taken'⟩ := takeCommand_of_stream commands onward taken
    rw [stopped] at taken'
    cases taken'

/-- The choice of the next agent leaves the stream of a host that has stopped. -/
theorem nextMove_stream_of_none {s : State} (stopped : s.takeCommand = none) :
    (nextMove s).2.commands = s.commands ∧ (nextMove s).2.onward = s.onward := by
  unfold nextMove
  split
  · exact ⟨rfl, rfl⟩
  · rw [hostMayStop_of_none stopped]
    exact ⟨rfl, rfl⟩

/-- A host that has stopped does not move. -/
theorem nextMove_ne_host_of_none {s : State} (stopped : s.takeCommand = none) : (nextMove s).1 ≠ .host := by
  intro host
  have en := nextMove_enabled s
  simp [host, enabled, stopped] at en

/-- A step that is not the host's leaves the stream as the choice of the agent left it. -/
theorem step_stream_of_ne_host {s t : State} (silent : (nextMove s).1 ≠ .host) (h : step s = .next t) :
    t.commands = (nextMove s).2.commands ∧ t.onward = (nextMove s).2.onward :=
  agentStep_stream_of_ne_host h silent

/-- A host that has stopped stays so. -/
theorem step_takeCommand_none {s t : State} (stopped : s.takeCommand = none) (h : step s = .next t) :
    t.takeCommand = none := by
  obtain ⟨commands, onward⟩ := nextMove_stream_of_none stopped
  obtain ⟨commands', onward'⟩ := step_stream_of_ne_host (nextMove_ne_host_of_none stopped) h
  exact takeCommand_none_of_stream (commands'.trans commands) (onward'.trans onward) stopped

/-! ## Quiescent states (R217) -/

namespace Quiescent
variable {s t : State} (q : Quiescent s)
include q

theorem eq_clock_of_enabled {a : Agent} (en : enabled s a = true) : a = .clock := by
  cases a with
  | clock => rfl
  | host => simp [enabled, q.hostStopped] at en
  | isr ch =>
    obtain ⟨hch, pending⟩ : ch.toNat < s.nCh ∧ irqPending (s.chan ch) = true := by simpa [enabled] using en
    obtain ⟨-, -, noIrq⟩ := q.drained ch hch
    rw [noIrq] at pending
    cases pending
  | pt ch =>
    obtain ⟨hch, loaded⟩ : ch.toNat < s.nCh ∧ (s.chan ch).ptq ≠ [] := by simpa [enabled] using en
    obtain ⟨noItems, -, -⟩ := q.drained ch hch
    exact absurd noItems loaded
  | uart ch =>
    obtain ⟨hch, loaded⟩ : ch.toNat < s.nCh ∧ (s.chan ch).fifo ≠ [] := by simpa [enabled] using en
    obtain ⟨-, noBytes, -⟩ := q.drained ch hch
    exact absurd noBytes loaded

/-- A channel that is ARMED or STREAMING has an item queued or its interrupt pending, as its kind is. -/
theorem idle_or_paused (inv : Inv s) {ch : ChanId} (hch : ch.toNat < s.nCh) :
    (s.chan ch).state = .idle ∨ (s.chan ch).state = .paused := by
  obtain ⟨noItems, noBytes, noIrq⟩ := q.drained ch hch
  have ok := inv.each ch hch
  have notBusy : ¬((s.chan ch).state = .armed ∨ (s.chan ch).state = .streaming) := by
    intro busy
    cases kind : (s.chan ch).cfg.transportKind with
    | pulse => exact (ok.pulseQueue kind).2 busy noItems
    | byte =>
      have pending := (irqPending_iff _).2 ⟨ok.refilled kind busy, .inr noBytes⟩
      rw [noIrq] at pending
      cases pending
  cases state : (s.chan ch).state with
  | idle => exact .inl rfl
  | paused => exact .inr rfl
  | armed => exact absurd (.inl state) notBusy
  | streaming => exact absurd (.inr state) notBusy

/-- A step is CLOCK's: it moves TIME_US and, as CLOCK was chosen, the fields of the schedule. -/
theorem step_eq (h : step s = .next t) :
    t = { s with timeUs := s.timeUs + 1, schedule := t.schedule, turn := t.turn, drawn := t.drawn } := by
  rw [step_eq_agentStep, q.eq_clock_of_enabled (nextMove_enabled s)] at h
  obtain rfl := outcome_next_inj h
  obtain ⟨commands, onward⟩ := nextMove_stream_of_none q.hostStopped
  have chosen := nextMove_frame s
  rw [commands, onward] at chosen
  exact congrArg clockTick chosen

theorem after_step (h : step s = .next t) : Quiescent t where
  hostStopped := step_takeCommand_none q.hostStopped h
  drained := by
    rw [q.step_eq h]
    exact q.drained

end Quiescent

/-! ## The work a channel has still to do -/

/-- What the agents of a channel have still to do: an item or a byte queued counts one, a value that the frame has left
its bytes and one more, and an interrupt to be disabled one. -/
def Chan.work (c : Chan) : Nat :=
  c.ptq.length + c.fifo.length + (frameLen c.cfg - c.curOffset.toNat) * (bytesPerValue c + 1) + c.intEn.toNat

theorem ptEmit_work_lt {c : Chan} (loaded : c.ptq ≠ []) : (ptEmit c).work < c.work := by
  have shorter : c.ptq.tail.length < c.ptq.length := by
    have := List.length_pos_iff.2 loaded
    rw [List.length_tail]
    omega
  rw [ptEmit_frame]
  simp only [Chan.work, bytesPerValue]
  omega

theorem uartDrain_work_lt {c : Chan} (loaded : c.fifo ≠ []) : (uartDrain c).work < c.work := by
  obtain ⟨b, rest, queue⟩ := List.exists_cons_of_ne_nil loaded
  rw [uartDrain_cons queue]
  simp only [Chan.work, bytesPerValue, queue, List.length_cons]
  omega

/-- Each value queued takes one off the work: its bytes, counted ahead, now stand in the FIFO. -/
theorem queueValues_work (p : Params) (ch : ChanId) (c : Chan) (n : Nat) :
    (queueValues c (nextValues p ch c n)).work + (nextValues p ch c n).length = c.work := by
  have cursor := queueValues_nextValues_curOffset p ch c n
  obtain ⟨left, split⟩ : ∃ left, frameLen c.cfg - c.curOffset.toNat = left + (nextValues p ch c n).length :=
    Nat.exists_eq_add_of_le' (by rw [nextValues_length]; omega)
  have left_eq : frameLen c.cfg - (c.curOffset.toNat + (nextValues p ch c n).length) = left := by omega
  have bytes : (queueValues c (nextValues p ch c n)).fifo.length =
      c.fifo.length + (nextValues p ch c n).length * bytesPerValue c := by
    rw [queueValues, List.length_append, flatMap_valueBytes_length]
  have same : (queueValues c (nextValues p ch c n)).work = c.ptq.length +
      (queueValues c (nextValues p ch c n)).fifo.length +
      (frameLen c.cfg - (queueValues c (nextValues p ch c n)).curOffset.toNat) * (bytesPerValue c + 1) +
      c.intEn.toNat := rfl
  rw [same, cursor, bytes, left_eq, Chan.work, split]
  ring

/-- In a legal configuration a value fits into an empty FIFO (R152). -/
theorem valuesThatFit_pos {p : Params} {c : Chan} (hp : p.wf) (ok : ChanOk p c) (empty : c.fifo = []) :
    0 < valuesThatFit p c := by
  have bpb : 1 ≤ c.cfg.bpb.toNat ∧ c.cfg.bpb.toNat ≤ 4 := by
    have get : (cfgGet c.cfg .bpb).toNat = c.cfg.bpb.toNat := BitVec.toNat_setWidth_of_le (by decide)
    rcases ok.fieldsLegal .bpb with legal | reset
    · rwa [legalValue, between_iff, get] at legal
    · rw [← get, reset]
      decide
  obtain ⟨-, -, -, ⟨depth, -⟩, -⟩ := hp
  obtain ⟨perPos, perMax⟩ := bytesPerValue_range bpb ok.width
  rw [valuesThatFit, empty]
  exact Nat.div_pos (perMax.trans depth) perPos

/-- The end of a refill takes the interrupt's one off the work, where the pump is exhausted (R151). -/
theorem goesOnOrEnds_work {before e : Chan} (on : e.intEn = true) :
    Chan.work (if pumpMore e then
        if before.fifo.length < e.fifo.length ∧ e.state = .armed then { e with state := .streaming } else e
      else finishByteFrame e) + (if pumpMore e then 0 else 1) = e.work := by
  cases pumpMore e with
  | true =>
    rw [if_pos rfl, if_pos rfl]
    split <;> rfl
  | false =>
    have off : (finishByteFrame e).work = e.ptq.length + e.fifo.length +
      (frameLen e.cfg - e.curOffset.toNat) * (bytesPerValue e + 1) := rfl
    rw [if_neg Bool.false_ne_true, if_neg Bool.false_ne_true, off, Chan.work, on]
    rfl

section Refill
variable {p : Params} {ch : ChanId} {c d : Chan} (ok : ChanOk p c) (pending : irqPending c = true)
  (filled : refill p ch c = .ok d)
include ok pending filled

/-- A refill takes the values it queues off the work, and one more where it ends the frame. -/
theorem refill_work :
    d.work + (if pumpMore (queueValues c (nextValues p ch c (valuesThatFit p c))) then 0 else 1) +
      (nextValues p ch c (valuesThatFit p c)).length = c.work := by
  have ended := refill_of_loop (refillLoop_eq ch (valuesThatFit p c) ok.bufLen_le)
  obtain rfl := Except.ok.inj (filled.symm.trans ended)
  have on : c.intEn = true := intEn_of_irqPending pending
  have ends := goesOnOrEnds_work (before := c) (e := queueValues c (nextValues p ch c (valuesThatFit p c))) on
  exact (congrArg (· + _) ends).trans (queueValues_work p ch c (valuesThatFit p c))

theorem refill_work_le : d.work ≤ c.work := by
  have total := refill_work ok pending filled
  omega

/-- The refill of an empty FIFO queues a value, or there is none left and it ends the frame (R152). -/
theorem refill_work_lt (hp : p.wf) (empty : c.fifo = []) : d.work < c.work := by
  have total := refill_work ok pending filled
  have count := nextValues_length p ch c (valuesThatFit p c)
  have fit := valuesThatFit_pos hp ok empty
  have cursor := queueValues_nextValues_curOffset p ch c (valuesThatFit p c)
  split at total
  next more =>
    have inFrame : (queueValues c (nextValues p ch c (valuesThatFit p c))).curOffset.toNat < frameLen c.cfg :=
      (pumpMore_iff _).1 more
    omega
  next => omega

end Refill

/-! ## The steps of the agents other than the host -/

/-- A refill takes no byte from the FIFO (R151). -/
theorem refill_fifo_ne_nil {p : Params} {ch : ChanId} {c d : Chan} (ok : ChanOk p c) (loaded : c.fifo ≠ [])
    (filled : refill p ch c = .ok d) : d.fifo ≠ [] := by
  obtain rfl := Except.ok.inj (filled.symm.trans (refill_eq ok.bufLen_le))
  exact List.append_ne_nil_of_left_ne_nil loaded _

/-- What a step of an agent of a channel makes of its channel (R140, R151, R156). -/
inductive ChannelMove (p : Params) (ch : ChanId) (c : Chan) : Agent → Chan → Prop where
  | pt (loaded : c.ptq ≠ []) : ChannelMove p ch c (.pt ch) (ptEmit c)
  | uart (loaded : c.fifo ≠ []) : ChannelMove p ch c (.uart ch) (uartDrain c)
  | isr {d : Chan} (pending : irqPending c = true) (filled : refill p ch c = .ok d) : ChannelMove p ch c (.isr ch) d

/-- A step that is not the host's is CLOCK's, which leaves the channels, or that of an agent of one channel, which
leaves the others. -/
theorem step_channelMove {s t : State} (silent : (nextMove s).1 ≠ .host) (h : step s = .next t) :
    ((nextMove s).1 = .clock ∧ ∀ o, t.chan o = s.chan o) ∨
    ∃ ch : ChanId, ch.toNat < s.nCh ∧ ChannelMove s.params ch (s.chan ch) (nextMove s).1 (t.chan ch) ∧
      ∀ o, o ≠ ch → t.chan o = s.chan o := by
  rw [step_eq_agentStep] at h
  have chan (o : ChanId) : (nextMove s).2.chan o = s.chan o := by simp only [State.chan, nextMove_chans]
  have nCh : (nextMove s).2.nCh = s.nCh := by simp only [State.nCh, nextMove_chans]
  have params := nextMove_params s
  have moves := nextMove_enabled s
  generalize (nextMove s).1 = a at h moves silent ⊢
  generalize (nextMove s).2 = u at h chan nCh params
  cases a with
  | host => exact absurd rfl silent
  | clock =>
    obtain rfl := outcome_next_inj h
    exact .inl ⟨rfl, chan⟩
  | pt ch =>
    obtain ⟨hch, loaded⟩ : ch.toNat < s.nCh ∧ (s.chan ch).ptq ≠ [] := by simpa [enabled] using moves
    obtain rfl := outcome_next_inj h
    refine .inr ⟨ch, hch, ?_, fun o ne => (chan_setChan_other u ne _).trans (chan o)⟩
    rw [chan_setChan_same (nCh ▸ hch), chan]
    exact .pt loaded
  | uart ch =>
    obtain ⟨hch, loaded⟩ : ch.toNat < s.nCh ∧ (s.chan ch).fifo ≠ [] := by simpa [enabled] using moves
    obtain rfl := outcome_next_inj h
    refine .inr ⟨ch, hch, ?_, fun o ne => (chan_setChan_other u ne _).trans (chan o)⟩
    rw [chan_setChan_same (nCh ▸ hch), chan]
    exact .uart loaded
  | isr ch =>
    obtain ⟨hch, pending⟩ : ch.toNat < s.nCh ∧ irqPending (s.chan ch) = true := by simpa [enabled] using moves
    obtain ⟨filled, others⟩ := isrStep_chan (nCh ▸ hch) ((chan ch).symm ▸ pending) h
    rw [chan, params] at filled
    exact .inr ⟨ch, hch, .isr pending filled, fun o ne => (others o ne).trans (chan o)⟩

theorem ChannelMove.work_le {p : Params} {ch : ChanId} {c d : Chan} {a : Agent} (ok : ChanOk p c)
    (moved : ChannelMove p ch c a d) : d.work ≤ c.work := by
  cases moved with
  | pt loaded => exact (ptEmit_work_lt loaded).le
  | uart loaded => exact (uartDrain_work_lt loaded).le
  | isr pending filled => exact refill_work_le ok pending filled

/-! ## Agents with work of their own -/

/-- An agent of channel `ch` waits where it has work that no other agent than the host takes from it: PT and UART with
a loaded queue, and the interrupt of a channel whose FIFO is empty. (With bytes in the FIFO a pending interrupt is
no such work: the refill may find no room, and then changes nothing.) -/
inductive Waits (ch : ChanId) (c : Chan) : Agent → Prop where
  | pt (loaded : c.ptq ≠ []) : Waits ch c (.pt ch)
  | uart (loaded : c.fifo ≠ []) : Waits ch c (.uart ch)
  | isr (empty : c.fifo = []) (on : c.intEn = true) : Waits ch c (.isr ch)

/-- The moves of a channel's other agents leave an agent waiting. -/
theorem Waits.of_move {p : Params} {ch : ChanId} {c d : Chan} {a mover : Agent} (waits : Waits ch c a)
    (ok : ChanOk p c) (moved : ChannelMove p ch c mover d) (other : mover ≠ a) : Waits ch d a := by
  cases moved with
  | pt _ =>
    rw [ptEmit_frame]
    cases waits with
    | pt _ => exact absurd rfl other
    | uart loaded => exact .uart loaded
    | isr empty on => exact .isr empty on
  | uart loaded =>
    obtain ⟨b, rest, queue⟩ := List.exists_cons_of_ne_nil loaded
    rw [uartDrain_cons queue]
    cases waits with
    | pt items => exact .pt items
    | uart _ => exact absurd rfl other
    | isr empty _ => exact absurd empty loaded
  | isr _ filled =>
    cases waits with
    | pt items =>
      rw [refill_frame filled]
      exact .pt items
    | uart loaded => exact .uart (refill_fifo_ne_nil ok loaded filled)
    | isr _ _ => exact absurd rfl other

/-- The move of an agent that waits takes work off. -/
theorem Waits.work_lt {p : Params} {ch : ChanId} {c d : Chan} {a : Agent} (waits : Waits ch c a) (hp : p.wf)
    (ok : ChanOk p c) (moved : ChannelMove p ch c a d) : d.work < c.work := by
  cases moved with
  | pt loaded => exact ptEmit_work_lt loaded
  | uart loaded => exact uartDrain_work_lt loaded
  | isr pending filled =>
    cases waits with
    | isr empty _ => exact refill_work_lt ok pending filled hp empty

theorem ChannelMove.channel_eq {p : Params} {ch o : ChanId} {c d e : Chan} {a : Agent}
    (moved : ChannelMove p o c a d) (waits : Waits ch e a) : o = ch := by
  cases moved <;> cases waits <;> rfl

/-- An agent of a channel of the machine waits. -/
def Waiting (s : State) (a : Agent) : Prop := ∃ ch : ChanId, ch.toNat < s.nCh ∧ Waits ch (s.chan ch) a

theorem Waiting.ne_host {s : State} {a : Agent} (waiting : Waiting s a) : a ≠ .host := by
  obtain ⟨ch, -, waits⟩ := waiting
  cases waits <;> simp

theorem Waiting.enabled {s : State} {a : Agent} (waiting : Waiting s a) : enabled s a = true := by
  obtain ⟨ch, hch, waits⟩ := waiting
  cases waits with
  | pt loaded => exact (enabled_pt_iff hch).2 loaded
  | uart loaded => exact (enabled_uart_iff hch).2 loaded
  | isr empty on => exact (enabled_isr_iff hch).2 ((irqPending_iff _).2 ⟨on, .inr empty⟩)

/-- Where the host has stopped and no agent waits, the state is quiescent. -/
theorem quiescent_of_none_waiting {s : State} (stopped : s.takeCommand = none) (rest : ∀ a, ¬Waiting s a) :
    Quiescent s where
  hostStopped := stopped
  drained := fun ch hch => by
    have noItems : (s.chan ch).ptq = [] := by
      by_contra loaded
      exact rest (.pt ch) ⟨ch, hch, .pt loaded⟩
    have noBytes : (s.chan ch).fifo = [] := by
      by_contra loaded
      exact rest (.uart ch) ⟨ch, hch, .uart loaded⟩
    refine ⟨noItems, noBytes, Bool.eq_false_of_not_eq_true fun pending => ?_⟩
    exact rest (.isr ch) ⟨ch, hch, .isr noBytes (intEn_of_irqPending pending)⟩

/-! ## The machine's work under a step -/

/-- The work of all channels. -/
def State.work (s : State) : Nat := ∑ ch : ChanId, (s.chan ch).work

section Step
variable {s t : State} (inv : Inv s) (silent : (nextMove s).1 ≠ .host) (h : step s = .next t)
include inv silent h

/-- An agent that waits goes on waiting until it moves. -/
theorem Waiting.after_step {a : Agent} (waiting : Waiting s a) (still : (nextMove s).1 ≠ a) : Waiting t a := by
  obtain ⟨ch, hch, waits⟩ := waiting
  refine ⟨ch, (step_keeps h).2 ▸ hch, ?_⟩
  rcases step_channelMove silent h with ⟨-, same⟩ | ⟨o, -, moved, others⟩
  · rwa [same]
  by_cases here : ch = o
  · subst here
    exact waits.of_move (inv.each ch hch) moved still
  · rwa [others ch here]

theorem step_chan_work_le (ch : ChanId) : (t.chan ch).work ≤ (s.chan ch).work := by
  rcases step_channelMove silent h with ⟨-, same⟩ | ⟨o, ho, moved, others⟩
  · rw [same]
  by_cases here : ch = o
  · subst here
    exact moved.work_le (inv.each ch ho)
  · rw [others ch here]

theorem step_work_le : t.work ≤ s.work := Finset.sum_le_sum fun ch _ => step_chan_work_le inv silent h ch

/-- A step of an agent that waits takes work off. -/
theorem step_work_lt (waiting : Waiting s (nextMove s).1) : t.work < s.work := by
  obtain ⟨ch, hch, waits⟩ := waiting
  have less : (t.chan ch).work < (s.chan ch).work := by
    rcases step_channelMove silent h with ⟨clock, -⟩ | ⟨o, -, moved, -⟩
    · rw [clock] at waits
      cases waits
    · obtain rfl := moved.channel_eq waits
      exact waits.work_lt inv.params (inv.each o hch) moved
  exact Finset.sum_lt_sum (fun o _ => step_chan_work_le inv silent h o) ⟨ch, Finset.mem_univ ch, less⟩

end Step

/-! ## Runs whose host stops (R217) -/

section Run
variable {run : Nat → State} (hrun : IsRun run)
include hrun

/-- A host that moves no more has no command left: past the schedule one that stays enabled moves, so at some free move
it stops (R7, log 6). -/
theorem run_host_stops {n : Nat} (silent : ∀ m, n ≤ m → (nextMove (run m)).1 ≠ .host) :
    ∃ N, (run N).takeCommand = none := by
  obtain ⟨N, hN, free⟩ := run_reaches_free hrun n 0
  obtain ⟨m, hm, stops⟩ : ∃ m, N ≤ m ∧ (run m).hostMayStop.takeCommand = none := by
    by_contra! goesOn
    obtain ⟨m, hm, moves⟩ := run_moves hrun (a := .host) (n := N) fun m hm => by
      simpa [enabled, Option.isSome_iff_ne_none] using goesOn m hm
    exact silent m (hN.trans hm) moves
  obtain ⟨commands, onward⟩ := step_stream_of_ne_host (silent m (hN.trans hm)) (hrun m)
  rw [nextMove_of_schedule_nil (free m hm).1] at commands onward
  exact ⟨m + 1, takeCommand_none_of_stream (s := (run m).hostMayStop) commands onward stops⟩

theorem run_takeCommand_none {n : Nat} (stopped : (run n).takeCommand = none) (m : Nat) (hm : n ≤ m) :
    (run m).takeCommand = none := by
  induction m, hm using Nat.le_induction with
  | base => exact stopped
  | succ m _ ih => exact step_takeCommand_none ih (hrun m)

variable (inv : ∀ n, Inv (run n))
include inv

/-- Once the host has stopped, an agent that waits moves, and waits until then (R7). -/
theorem run_waiting_moves {n : Nat} (stopped : (run n).takeCommand = none) {a : Agent} (waiting : Waiting (run n) a) :
    ∃ m, n ≤ m ∧ Waiting (run m) a ∧ (nextMove (run m)).1 = a := by
  by_contra! still
  have waits : ∀ m, n ≤ m → Waiting (run m) a := fun m hm => by
    induction m, hm using Nat.le_induction with
    | base => exact waiting
    | succ m hm ih =>
      have silent := nextMove_ne_host_of_none (run_takeCommand_none hrun stopped m hm)
      exact ih.after_step (inv m) silent (hrun m) (still m hm ih)
  obtain ⟨m, hm, moves⟩ := run_weaklyFair hrun a waiting.ne_host n fun m hm => (waits m hm).enabled
  exact still m hm (waits m hm) moves

theorem run_work_le {n : Nat} (stopped : (run n).takeCommand = none) (m : Nat) (hm : n ≤ m) :
    (run m).work ≤ (run n).work := by
  induction m, hm using Nat.le_induction with
  | base => exact le_rfl
  | succ m hm ih =>
    have silent := nextMove_ne_host_of_none (run_takeCommand_none hrun stopped m hm)
    exact (step_work_le (inv m) silent (hrun m)).trans ih

/-- The descent: while an agent waits, one moves and takes work off. -/
theorem run_reaches_quiescent {n : Nat} (stopped : (run n).takeCommand = none) : ∃ m, Quiescent (run m) := by
  induction left : (run n).work using Nat.strong_induction_on generalizing n with
  | _ work ih =>
    by_cases rest : ∀ a, ¬Waiting (run n) a
    · exact ⟨n, quiescent_of_none_waiting stopped rest⟩
    · obtain ⟨a, waiting⟩ := not_forall_not.1 rest
      obtain ⟨m, hm, waiting, rfl⟩ := run_waiting_moves hrun inv stopped waiting
      have stopped' := run_takeCommand_none hrun stopped m hm
      have less := step_work_lt (inv m) (nextMove_ne_host_of_none stopped') (hrun m) waiting
      have before := run_work_le hrun inv stopped m hm
      exact ih _ (by omega) (step_takeCommand_none stopped' (hrun m)) rfl

end Run

/-- Settles O60: a quiescent state's step is CLOCK's by `Quiescent.step_eq`, and a run reaches one by the descent of
`run_reaches_quiescent`. -/
theorem runsWhoseHostStopsEndQuiescent : Obligations.RunsWhoseHostStopsEndQuiescent := by
  refine ⟨fun s t inv q h => ⟨fun ch => q.idle_or_paused inv, q.step_eq h, q.after_step h⟩, ?_⟩
  rintro run hrun inv ⟨n, silent⟩
  obtain ⟨N, stopped⟩ := run_host_stops hrun silent
  exact run_reaches_quiescent hrun inv stopped

end Sys2Proof.Machine
end
